-- ==== Sys2Proof/Word.lean ====
section
/-! DEFINITION. The word types of the GR316 (spec/00_scope.md 0.7). -/

namespace Sys2Proof

/-- One byte on the serial link. -/
abbrev Byte := BitVec 8

/-- A line position in line units, modulo 2^32 (R4, R5). -/
abbrev Pos := BitVec 32

/-- A part time in microseconds, modulo 2^32 (00_scope.md 0.7.4). -/
abbrev Time := BitVec 32

/-- An item number; 0 stands for no item (00_scope.md 0.7.5). -/
abbrev ItemNo := BitVec 16

end Sys2Proof
end

