-- ==== Sys2Proof/Config.lean ====
section
/-! DEFINITION. The fixed quantities of the part (spec/00_scope.md Table 7) and its one free value. -/

namespace Sys2Proof.Config

/-- Items in the item queue (R38, Table 7). -/
def itemCapacity : Nat := 48

/-- Notices in the notice queue (R142, Table 7). -/
def noticeCapacity : Nat := 32

/-- Commands in the request queue, and responses in the response queue (R156, Table 7). -/
def linkCapacity : Nat := 4

/-- The greatest interval, in fine ticks (R6). -/
def maxInterval : Nat := 16777215

/-- Fine ticks in a second: one is 1/32 µs (Table 4). -/
def ticksPerSecond : Nat := 32000000

/-- FREE VALUE (log 12). R67 divides by the interval and says that a valid interval is at least 1 fine tick;
it gives no lead distance for a valid interval of 0. The arguments are the lead time and S. -/
opaque leadAtZeroInterval (leadTime s : Nat) : Nat

end Sys2Proof.Config
end

