-- ==== Sys2Proof/Syntax.lean ====
section
/-! DEFINITION. The commands of the GR316: one constructor for each row of spec/opcode_table.json. -/

namespace Sys2Proof

/-- The two quadrature phases of the line encoder (spec/01 1.1). -/
inductive Phase where
  | a
  | b
  deriving DecidableEq, Repr

/-- The part's events and link commands. A link command carries its SEQ byte and its payload, byte by byte as
Table 71 lays it out (log 10); the two forms of RUN_STOP carry the payload that follows the stop kind (log 11). -/
inductive Instr where
  | powerOnReset
  | pinReset
  | softReset
  /-- COUNT: the named phase changes its filtered level, the other does not (R2). -/
  | count (phase : Phase)
  | illegalTransition
  | indexEdge
  | subStep
  | standstillWatchExpiry
  /-- SENSE_EDGE: the filtered level of the named sense input changes (R20). -/
  | senseEdge (input : Fin 4)
  | fltInActivation
  | fltInRelease
  | maxOnDeadlineExpiry (bank : Fin 2) (station : Fin 16)
  | timePulseEnd (bank : Fin 2) (station : Fin 16)
  | drainDeadlineExpiry
  | receiveByte (value : Byte)
  | gapWatchExpiry
  | transmitEnd
  | linkRateChange
  | trialDeadlineExpiry
  | ident (seq : Byte) (payload : List Byte)
  | status (seq : Byte) (payload : List Byte)
  | linkSet (seq : Byte) (payload : List Byte)
  | linkStatus (seq : Byte) (payload : List Byte)
  | partReset (seq : Byte) (payload : List Byte)
  | lineSet (seq : Byte) (payload : List Byte)
  | posSet (seq : Byte) (payload : List Byte)
  | senseSet (seq : Byte) (payload : List Byte)
  | markSet (seq : Byte) (payload : List Byte)
  | stnWrite (seq : Byte) (payload : List Byte)
  | stnRead (seq : Byte) (payload : List Byte)
  | chkWrite (seq : Byte) (payload : List Byte)
  | chkRead (seq : Byte) (payload : List Byte)
  | bankParam (seq : Byte) (payload : List Byte)
  | bankCommit (seq : Byte) (payload : List Byte)
  | bankCancel (seq : Byte) (payload : List Byte)
  | linesSet (seq : Byte) (payload : List Byte)
  | outForce (seq : Byte) (payload : List Byte)
  | runStart (seq : Byte) (payload : List Byte)
  | runStopDrain (seq : Byte) (limit : List Byte)
  | runStopFlush (seq : Byte) (limit : List Byte)
  | faultClear (seq : Byte) (payload : List Byte)
  | itemTag (seq : Byte) (payload : List Byte)
  | itemVerdict (seq : Byte) (payload : List Byte)
  | itemInject (seq : Byte) (payload : List Byte)
  | queueRead (seq : Byte) (payload : List Byte)
  | noticeClass (seq : Byte) (payload : List Byte)
  /-- UNKNOWN_KIND_COMMAND: a good frame whose KIND names no command (R158). -/
  | unknownKindCommand (seq kind : Byte) (payload : List Byte)
  deriving DecidableEq, Repr

/-- The command codes of Table 66. -/
def commandCodes : List Byte :=
  [0x01#8, 0x02#8, 0x03#8, 0x04#8, 0x05#8, 0x10#8, 0x11#8, 0x12#8, 0x13#8, 0x18#8, 0x19#8, 0x1A#8, 0x1B#8, 0x1C#8,
   0x1D#8, 0x1E#8, 0x1F#8, 0x20#8, 0x24#8, 0x25#8, 0x26#8, 0x28#8, 0x29#8, 0x2A#8, 0x2B#8, 0x30#8]

end Sys2Proof
end

