-- ==== Sys2Proof/WellFormed.lean ====
section
/-! DEFINITION. Which commands are well formed: the payload lengths of Table 71 and the frame's limit (R169, Table 69).
An ill-formed link command still has a meaning: the part answers it with BAD_LENGTH or under the command its KIND names. -/

namespace Sys2Proof

/-- The payload has the length that Table 71 gives the command, and an unknown KIND names no command. -/
def Instr.wellFormed : Instr → Bool
  | .powerOnReset => true
  | .pinReset => true
  | .softReset => true
  | .count _ => true
  | .illegalTransition => true
  | .indexEdge => true
  | .subStep => true
  | .standstillWatchExpiry => true
  | .senseEdge _ => true
  | .fltInActivation => true
  | .fltInRelease => true
  | .maxOnDeadlineExpiry _ _ => true
  | .timePulseEnd _ _ => true
  | .drainDeadlineExpiry => true
  | .receiveByte _ => true
  | .gapWatchExpiry => true
  | .transmitEnd => true
  | .linkRateChange => true
  | .trialDeadlineExpiry => true
  | .ident _ p => p.length == 0
  | .status _ p => p.length == 0
  | .linkSet _ p => p.length == 1
  | .linkStatus _ p => p.length == 1
  | .partReset _ p => p.length == 0
  | .lineSet _ p => p.length == 13
  | .posSet _ p => p.length == 4
  | .senseSet _ p => p.length == 3
  | .markSet _ p => p.length == 15
  | .stnWrite _ p => p.length == 21
  | .stnRead _ p => p.length == 2
  | .chkWrite _ p => p.length == 12
  | .chkRead _ p => p.length == 2
  | .bankParam _ p => p.length == 5
  | .bankCommit _ p => p.length == 1
  | .bankCancel _ p => p.length == 1
  | .linesSet _ p => p.length == 2
  | .outForce _ p => p.length == 2
  | .runStart _ p => p.length == 0
  | .runStopDrain _ p => p.length == 2
  | .runStopFlush _ p => p.length == 2
  | .faultClear _ p => p.length == 0
  | .itemTag _ p => p.length == 6
  | .itemVerdict _ p => p.length == 3
  | .itemInject _ p => p.length == 0
  | .queueRead _ p => p.length == 3
  | .noticeClass _ p => p.length == 2
  | .unknownKindCommand _ k p => !commandCodes.contains k && decide (p.length ≤ 124)

end Sys2Proof
end

