-- ==== Sys2Proof/Machine/State.lean ====
section
/-! DEFINITION. The state of the GR316, block by block (spec/00_scope.md Table 3), and its reset values. -/

namespace Sys2Proof.Machine

/-! ### Enumerations (spec/10 Table 70 gives their codes) -/

inductive Mode where
  | configure | run | stopping | fault
  deriving DecidableEq, Repr

inductive Dir where
  | forward | reverse
  deriving DecidableEq, Repr

inductive Motion where
  | halted | forward | reverse
  deriving DecidableEq, Repr

inductive CountMode where
  | x1 | x2 | x4
  deriving DecidableEq, Repr

inductive Polarity where
  | activeHigh | activeLow
  deriving DecidableEq, Repr

inductive EdgeKind where
  | rising | falling
  deriving DecidableEq, Repr

inductive DetState where
  | idle | off | search | track | coast
  deriving DecidableEq, Repr

inductive Origin where
  | sensed | synthetic | injected
  deriving DecidableEq, Repr

inductive Verdict where
  | none | accept | reject
  deriving DecidableEq, Repr

inductive VerdictSource where
  | none | host | default
  deriving DecidableEq, Repr

inductive StationOutcome where
  | notUsed | pending | fired | merged | skipped | late
  deriving DecidableEq, Repr

/-- A window outcome of an item; NONE of the last outcome of Table 37 shares the code of NOT_USED (Table 70). -/
inductive WindowOutcome where
  | notUsed | pending | pass | fail | missed
  deriving DecidableEq, Repr

inductive ItemState where
  | tracking | decided
  deriving DecidableEq, Repr

inductive BankState where
  | idle | armed | active | draining
  deriving DecidableEq, Repr

inductive Cause where
  | encoder | reverseLimit | indexSlip | external
  deriving DecidableEq, Repr

inductive Action where
  | pulse | set | clear | invert
  deriving DecidableEq, Repr

inductive LengthKind where
  | distance | time
  deriving DecidableEq, Repr

inductive Condition where
  | always | accepted | rejected | windowPass | windowFail
  deriving DecidableEq, Repr

inductive EndCause where
  | none | target | deadline | superseded | mode
  deriving DecidableEq, Repr

inductive Expected where
  | active | inactive
  deriving DecidableEq, Repr

inductive Rule where
  | any | all
  deriving DecidableEq, Repr

inductive Forced where
  | none | inactive | active
  deriving DecidableEq, Repr

inductive StrayReason where
  | retrace | short | blanked | early
  deriving DecidableEq, Repr

inductive ModeReason where
  | start | drain | drained | flushed | drainTimeout | cleared | reset
  deriving DecidableEq, Repr

inductive ResetKind where
  | powerOn | pin | soft
  deriving DecidableEq, Repr

inductive BankEvent where
  | direct | switch | activate | cancel
  deriving DecidableEq, Repr

inductive LinkState where
  | steady | trial
  deriving DecidableEq, Repr

inductive Activation where
  | reset | direct | switch
  deriving DecidableEq, Repr

inductive RecipeReason where
  | leadExceedsOffset | verdictTooEarly | windowDisabled | windowTooLate | windowOverPitch | offsetOverflow
  deriving DecidableEq, Repr

/-- The fifteen status codes of Table 73. -/
inductive Status where
  | ok | badLength | badKind | badValue | wrongMode | busy | bankBusy | bankArmed | noItem | late | recipeInvalid
  | detectorOn | externalHold | noChange | queueFull
  deriving DecidableEq, Repr

/-- The twelve notice kinds of Table 60. -/
inductive NoticeKind where
  | mark | stray | lost | item | qfull | bank | motion | index | fault | mode | link | encErr
  deriving DecidableEq, Repr

/-- The four receiver states of Table 65. -/
inductive RxPhase where
  | hunt | length | body | check
  deriving DecidableEq, Repr

/-! ### Inputs -/

/-- The raw levels of the input pins (spec/00 Table 1), driven from outside the part; RESETN is active LOW. -/
structure Pins where
  encA : Bool
  encB : Bool
  encZ : Bool
  sn : Vector Bool 4
  fltIn : Bool
  rxd : Bool
  resetn : Bool
  deriving DecidableEq, Repr

/-- An input filter: the filtered level, and for how many samples the raw level has differed from it (R1, R20, R122). -/
structure Filt where
  level : Bool
  diff : Nat
  /-- no sample has been taken since the reset: the first gives the level without filtering (R1, R20, R122) -/
  unsampled : Bool := false
  deriving DecidableEq, Repr

/-! ### Line encoder interface (spec/01) -/

/-- The settings of LINE_SET (Table 14). -/
structure LineCfg where
  countMode : CountMode
  invert : Bool
  s : Nat
  filter : Nat
  standstillMs : Nat
  revThreshold : Nat
  revLimit : Nat
  perIndex : Nat
  slack : Nat
  indexFault : Bool
  deriving DecidableEq, Repr

/-- The same-direction run of R6: its direction and how many measurements it holds, two standing for two or more. -/
structure SameDir where
  dir : Dir
  measured : Nat
  deriving DecidableEq, Repr

/-- The state of LEI (Table 16). The position and the excursion are computed (log 13). -/
structure Lei where
  cfg : LineCfg
  encA : Filt
  encB : Filt
  encZ : Filt
  countReg : Nat
  sub : Nat
  reach : Pos
  motion : Motion
  turning : Nat
  interval : Nat
  valid : Bool
  sameDir : Option SameDir
  /-- fine ticks since the previous count, saturated at 2^24 - 1 (R6) -/
  sinceCount : Nat
  /-- the direction of the most recent count since reset (R14) -/
  lastDir : Option Dir
  /-- fine ticks left of the sub-step period, none when stopped (R7) -/
  subTimer : Option Nat
  /-- the part time at which the standstill watch was restarted, none when expired (R9) -/
  standstill : Option Time
  indexRef : Bool
  indexCount : Nat
  deriving DecidableEq, Repr

/-! ### Sense inputs and mark detector (spec/02) -/

/-- One sense input (R20, Table 17). -/
structure SenseInput where
  polarity : Polarity
  filterUs : Nat
  filt : Filt
  deriving DecidableEq, Repr

/-- The settings of MARK_SET (Table 18). -/
structure MarkCfg where
  enable : Bool
  input : Fin 4
  edge : EdgeKind
  minLength : Nat
  pitch : Nat
  tolerance : Nat
  missLimit : Nat
  blanking : Nat
  deriving DecidableEq, Repr

/-- The state of MKD (Table 23). -/
structure Mkd where
  cfg : MarkCfg
  state : DetState
  expected : Pos
  missRun : Nat
  lastAccepted : Option Pos
  candidate : Option Pos
  deferred : Bool
  lastCreated : ItemNo
  deriving DecidableEq, Repr

/-! ### Item queue (spec/03) -/

/-- One item record (Table 24). -/
structure Item where
  no : ItemNo
  origin : Origin
  bank : Fin 2
  mark : Pos
  created : Time
  tag : Option (BitVec 32)
  verdict : Verdict
  source : VerdictSource
  closed : Bool
  stations : Vector StationOutcome 16
  windows : Vector WindowOutcome 4
  state : ItemState
  deriving DecidableEq, Repr

/-- The item queue, head first, and the next item number (R38, R39). -/
structure Iq where
  items : List Item
  next : ItemNo
  deriving DecidableEq, Repr

/-! ### Stations and actuator lines (spec/04) -/

/-- A station definition (Table 27). -/
structure StationDef where
  enabled : Bool
  line : Fin 16
  action : Action
  offset : Nat
  lengthKind : LengthKind
  length : Nat
  maxOn : Nat
  leadTime : Nat
  leadLimit : Nat
  condition : Condition
  window : Fin 4
  deriving DecidableEq, Repr

/-- A station's run state (Table 28). The lead distance is computed (log 13). -/
structure StationRun where
  cursor : Option ItemNo
  held : Bool
  on : Bool
  pulseLine : Fin 16
  endKind : LengthKind
  endTarget : BitVec 32
  opening : ItemNo
  maxOn : Option Time
  lastEnd : EndCause
  deriving DecidableEq, Repr

structure Station where
  cfg : StationDef
  run : StationRun
  deriving DecidableEq, Repr

/-- An actuator line (Table 31). The demand set and the pin level are computed (log 13). -/
structure Line where
  latch : Bool
  polarity : Polarity
  forced : Forced
  deriving DecidableEq, Repr

/-! ### Check windows (spec/05) -/

/-- A window definition (Table 36). -/
structure WindowDef where
  enabled : Bool
  input : Fin 4
  expected : Expected
  start : Nat
  length : Nat
  rule : Rule
  deriving DecidableEq, Repr

/-- A window's run state (Table 37). -/
structure WindowRun where
  cursor : Option ItemNo
  opened : Bool
  recItem : ItemNo
  recStart : Pos
  recClose : Pos
  seenActive : Bool
  seenInactive : Bool
  last : WindowOutcome
  deriving DecidableEq, Repr

structure Window where
  cfg : WindowDef
  run : WindowRun
  deriving DecidableEq, Repr

/-! ### Recipe banks (spec/06) -/

/-- How a bank last became ACTIVE, and the first item created under it, or 0 (R107). -/
structure ActivationRecord where
  how : Activation
  first : ItemNo
  deriving DecidableEq, Repr

/-- One recipe bank: its contents (Table 43) with the run state of its stations and windows, its state and its
reference count (R104, R105). -/
structure Bank where
  stations : Vector Station 16
  windows : Vector Window 4
  closeDistance : Nat
  defaultVerdict : Verdict
  state : BankState
  count : Nat
  activation : ActivationRecord
  deriving DecidableEq, Repr

/-! ### Run control (spec/07) -/

/-- The fault set (R121): each cause present at most once. -/
structure FaultSet where
  encoder : Bool
  reverseLimit : Bool
  indexSlip : Bool
  external : Bool
  deriving DecidableEq, Repr

structure Run where
  mode : Mode
  faults : FaultSet
  first : Option Cause
  drain : Option Time
  /-- filtered FLT_IN, active LOW (R122) -/
  flt : Filt
  deriving DecidableEq, Repr

/-! ### Notices (spec/08) -/

/-- What a notice carries, kind by kind (Table 62, Table 77). -/
inductive NoticeBody where
  | mark (origin : Origin) (item : ItemNo) (mark reach : Pos) (state : DetState) (missRun : Nat) (deviation : Int)
      (notMeasured : Bool)
  | stray (reason : StrayReason) (lead reach : Pos) (state : DetState) (reference : Pos)
  | lost (expected : Pos) (missLimit : Nat) (reach : Pos) (lastItem : ItemNo)
  | item (record : Item) (reach : Pos) (count : Nat)
  | qfull (origin : Origin) (mark reach : Pos) (head : ItemNo)
  | bank (event : BankEvent) (bank : Fin 2) (state0 : BankState) (count0 : Nat) (state1 : BankState) (count1 : Nat)
      (first : ItemNo) (reach : Pos)
  | motion (new previous : Motion) (position reach : Pos)
  | index (expected measured : Nat) (position : Pos) (faultRaised : Bool)
  | fault (cause : Cause) (first : Option Cause) (faults : FaultSet) (takenIn : Mode) (position reach : Pos)
      (motion : Motion) (count : Nat) (head : ItemNo)
  | mode (new previous : Mode) (reason : ModeReason) (discarded : Nat) (first last : ItemNo) (position reach : Pos)
      (active : Fin 2) (kind : Option ResetKind)
  | link (tried restored : Fin 6)
  | encErr (position : Pos) (aBefore bBefore aAfter bAfter : Bool)
  deriving DecidableEq, Repr

/-- A queued notice (Table 59). -/
structure Notice where
  number : BitVec 16
  cls : Nat
  time : Time
  body : NoticeBody
  deriving DecidableEq, Repr

structure Ntq where
  queue : List Notice
  next : BitVec 16
  classes : Vector Nat 12
  deriving DecidableEq, Repr

/-! ### Serial link (spec/09) -/

/-- A command frame as the request queue holds it (R156). -/
structure Request where
  seq : Byte
  kind : Byte
  payload : List Byte
  deriving DecidableEq, Repr

/-- A response from its header on (Table 72). -/
structure Reply where
  status : Status
  repeated : Bool
  replaced : Bool
  alreadyStopping : Bool
  detail : Nat
  content : List Byte
  deriving DecidableEq, Repr

/-- What the end of a response's transmission brings about: nothing more, the rate change of a taken LINK_SET (R162),
or the soft reset of PART_RESET (R136). -/
inductive Role where
  | plain
  | rateChange (new : Fin 6)
  | partReset
  deriving DecidableEq, Repr

/-- An entry of the response queue, with the SEQ and KIND of its command. -/
structure Response where
  seq : Byte
  kind : Byte
  reply : Reply
  role : Role
  deriving DecidableEq, Repr

/-- The response cache (R160): the SEQ and KIND of the last command executed, and its response. -/
structure Cached where
  seq : Byte
  kind : Byte
  reply : Reply
  deriving DecidableEq, Repr

/-- A frame in either direction, less SYNC, LEN and check bytes (Table 69). -/
structure Frame where
  seq : Byte
  kind : Byte
  payload : List Byte
  deriving DecidableEq, Repr

/-- The transmitter (R161): idle, or sending one frame at the rate it began with, for so many fine ticks now. -/
inductive Tx where
  | idle
  | sending (frame : Frame) (rate : Fin 6) (role : Role) (ticks : Nat)
  deriving DecidableEq, Repr

/-- Whether execution is paused (R157). -/
inductive Pause where
  | running | rateChange | softReset
  deriving DecidableEq, Repr

/-- The byte receiver on RXD (R149). -/
inductive RxLine where
  /-- RXD has not been high since the last byte or a reset: no start bit is looked for -/
  | waitHigh
  /-- RXD has been high: a low level is a start bit -/
  | ready
  /-- a byte in reception: the rate at which its start bit was taken, the fine ticks since then, and the bits sampled, in
  order -/
  | receiving (rate : Fin 6) (ticks : Nat) (bits : List Bool)
  /-- the byte has been sampled whole and its RECEIVE_BYTE is on the way -/
  | sampled (rate : Fin 6)
  deriving DecidableEq, Repr

/-- The receiver: the byte receiver, and the frame receiver of Table 65. -/
structure Rx where
  line : RxLine
  phase : RxPhase
  crc : BitVec 16
  left : Nat
  body : List Byte
  checkHigh : Option Byte
  /-- the rate at which the frame's SYNC byte was received (R163) -/
  syncRate : Fin 6
  /-- the part time at the end of the last byte taken, while the gap watch runs (R154) -/
  gapFrom : Option Time
  deriving DecidableEq, Repr

structure Slk where
  rate : Fin 6
  link : LinkState
  trialDeadline : Option Time
  oldRate : Option (Fin 6)
  rx : Rx
  requests : List Request
  responses : List Response
  cache : Option Cached
  tx : Tx
  pause : Pause
  crcErrors : Nat
  lengthErrors : Nat
  gapErrors : Nat
  busyDrops : Nat
  deriving DecidableEq, Repr

/-! ### The model's own choices where the spec allows either order -/

/-- FREE VALUES, plain data (log 6 to log 9): each list is a list of choices that `arrange` reads, empty for the
canonical order. -/
structure Sched where
  /-- the order in which the blocks take one count or sub-step (log 6) -/
  tasks : List Nat
  /-- the order in which stations and windows take up a new item (log 6) -/
  uptake : List Nat
  /-- the order in which held stations take one closing or resolution (log 6) -/
  release : List Nat
  /-- the order in which the detector and the windows take one sense edge (log 6) -/
  edges : List Nat
  /-- the order of events that fall due at one tick (log 7) -/
  events : List Nat
  /-- the gap watch expires before a start bit that is found at the very tick at which it falls due (log 7) -/
  gapFirst : Bool
  /-- an idle transmitter takes a notice at its offer, and not when the event is over (log 8) -/
  noticeFirst : Bool
  /-- a command that could be executed waits for the next idle step (log 9) -/
  deferExec : Bool
  deriving DecidableEq, Repr

/-- The whole state of the part, with the queue of commands that are waiting. -/
structure State where
  pending : List Instr
  partTime : Time
  fine : Nat
  pins : Pins
  samples : List Pins
  sched : Sched
  lei : Lei
  sns : Vector SenseInput 4
  mkd : Mkd
  iq : Iq
  banks : Vector Bank 2
  act : Vector Line 16
  run : Run
  ntq : Ntq
  slk : Slk
  deriving DecidableEq, Repr

/-- No meaning ends in a fault: the spec names no event that stops the part (log 18). -/
inductive Fault where
  deriving DecidableEq, Repr

/-- Why a command is refused. -/
inductive Refusal where
  /-- Raised by exec's arm of a command that has no meaning yet; no arm raises it now. Safe. -/
  | notModelled (mnemonic : String)
  deriving DecidableEq, Repr

/-! ### Reset values -/

/-- A filtered level as a sample gives it. -/
def Filt.ofSample (raw : Bool) : Filt := { level := raw, diff := 0 }

/-- A filter before its first sample, which takes the raw level without filtering (R1, R20, R122); until then it reads as its pin
stands at the reset (log 2). -/
def Filt.atReset (raw : Bool) : Filt := { level := raw, diff := 0, unsampled := true }

/-- The pins as the model first shows them (log 2): every pin low but FLT_IN, which is high and so inactive, RXD, which
rests high, and RESETN, which has been released. -/
def Pins.atReset : Pins :=
  { encA := false, encB := false, encZ := false, sn := Vector.replicate 4 false, fltIn := true, rxd := true, resetn := true }

/-- The defaults of Table 14. -/
def LineCfg.atReset : LineCfg :=
  { countMode := .x4, invert := false, s := 4, filter := 4, standstillMs := 100, revThreshold := 4, revLimit := 4096,
    perIndex := 0, slack := 0, indexFault := false }

/-- Table 16 (R19). -/
def Lei.atReset (p : Pins) : Lei :=
  { cfg := .atReset, encA := .atReset p.encA, encB := .atReset p.encB, encZ := .atReset p.encZ, countReg := 0,
    sub := 0, reach := 0#32, motion := .halted, turning := 0, interval := 0, valid := false, sameDir := none,
    sinceCount := 0, lastDir := none, subTimer := none, standstill := none, indexRef := false, indexCount := 0 }

/-- Table 23 (R37), one sense input. -/
def SenseInput.atReset (raw : Bool) : SenseInput :=
  { polarity := .activeHigh, filterUs := 0, filt := .atReset raw }

/-- Table 23 (R37), the four sense inputs. -/
def snsAtReset (p : Pins) : Vector SenseInput 4 :=
  #v[.atReset p.sn[0], .atReset p.sn[1], .atReset p.sn[2], .atReset p.sn[3]]

/-- The defaults of Table 18. -/
def MarkCfg.atReset : MarkCfg :=
  { enable := false, input := 0, edge := .rising, minLength := 0, pitch := 0, tolerance := 0, missLimit := 0,
    blanking := 0 }

/-- Table 23 (R37), the detector. -/
def Mkd.atReset : Mkd :=
  { cfg := .atReset, state := .idle, expected := 0#32, missRun := 0, lastAccepted := none, candidate := none,
    deferred := false, lastCreated := 0#16 }

/-- R61. -/
def Iq.atReset : Iq := { items := [], next := 1#16 }

/-- Table 27 (defaults) and Table 35 (R89). -/
def Station.atReset : Station :=
  { cfg := { enabled := false, line := 0, action := .pulse, offset := 0, lengthKind := .distance, length := 1, maxOn := 0,
             leadTime := 0, leadLimit := 0, condition := .always, window := 0 },
    run := { cursor := none, held := false, on := false, pulseLine := 0, endKind := .distance, endTarget := 0#32,
             opening := 0#16, maxOn := none, lastEnd := .none } }

/-- Table 36 (defaults) and Table 42 (R102). -/
def Window.atReset : Window :=
  { cfg := { enabled := false, input := 0, expected := .active, start := 0, length := 1, rule := .any },
    run := { cursor := none, opened := false, recItem := 0#16, recStart := 0#32, recClose := 0#32, seenActive := false,
             seenInactive := false, last := .notUsed } }

/-- Table 50 (R120): bank 0 ACTIVE, bank 1 IDLE. -/
def Bank.atReset (state : BankState) : Bank :=
  { stations := Vector.replicate 16 .atReset, windows := Vector.replicate 4 .atReset, closeDistance := 0,
    defaultVerdict := .accept, state := state, count := 0, activation := { how := .reset, first := 0#16 } }

/-- Table 35 (R89). -/
def Line.atReset : Line := { latch := false, polarity := .activeHigh, forced := .none }

/-- The empty fault set. -/
def FaultSet.empty : FaultSet := { encoder := false, reverseLimit := false, indexSlip := false, external := false }

/-- R121, R122. -/
def Run.atReset (p : Pins) : Run :=
  { mode := .configure, faults := .empty, first := none, drain := none, flt := .atReset p.fltIn }

/-- Table 63 (R148), with the default classes of Table 60. -/
def Ntq.atReset : Ntq := { queue := [], next := 0#16, classes := #v[1, 0, 2, 1, 3, 2, 1, 2, 3, 3, 3, 2] }

/-- The receiver in HUNT, looking for a start bit once RXD is high (R167, log 21). -/
def Rx.atReset : Rx :=
  { line := .waitHigh, phase := .hunt, crc := 0xFFFF#16, left := 0, body := [], checkHigh := none, syncRate := 0,
    gapFrom := none }

/-- Table 68 (R167), at the rate code that the kind of reset leaves. -/
def Slk.atReset (rate : Fin 6) : Slk :=
  { rate := rate, link := .steady, trialDeadline := none, oldRate := none, rx := .atReset, requests := [],
    responses := [], cache := none, tx := .idle, pause := .running, crcErrors := 0, lengthErrors := 0, gapErrors := 0,
    busyDrops := 0 }

/-- The canonical orders: no rearrangement, the transmitter looks at the end of an event, commands execute at once. -/
def Sched.canonical : Sched :=
  { tasks := [], uptake := [], release := [], edges := [], events := [], gapFirst := false, noticeFirst := false
    deferExec := false }

/-- Every block in its reset state with the pins, the inputs to come, the free orders and the queue of commands given
(R135, R136). The notice that follows a reset is queued by the reset steps (Machine/Resets.lean). -/
def State.atReset (pending : List Instr) (pins : Pins) (samples : List Pins) (sched : Sched) (rate : Fin 6) : State :=
  { pending := pending, partTime := 0#32, fine := 0, pins := pins, samples := samples, sched := sched,
    lei := .atReset pins, sns := snsAtReset pins, mkd := .atReset, iq := .atReset,
    banks := #v[.atReset .active, .atReset .idle], act := Vector.replicate 16 .atReset, run := .atReset pins,
    ntq := .atReset, slk := .atReset rate }

/-- The machine right after a power-on reset: each field as the table of reset values of its chapter gives it (log 1). -/
def State.reset : State := State.atReset [] .atReset [] .canonical 0

end Sys2Proof.Machine
end

