-- ==== Sys2Proof/Machine/Ops.lean ====
section
/-! DEFINITION. The named operations over the state: updates, accessors, position arithmetic and what is computed from
the state (lead distances, demand sets, pin levels). -/

namespace Sys2Proof.Machine

/-! ### Updates, one for each block -/

def State.withPending (s : State) (q : List Instr) : State := { s with pending := q }
def State.withClock (s : State) (t : Time) (f : Nat) : State := { s with partTime := t, fine := f }
def State.withPins (s : State) (p : Pins) : State := { s with pins := p }
def State.withSamples (s : State) (l : List Pins) : State := { s with samples := l }
def State.withLei (s : State) (l : Lei) : State := { s with lei := l }
def State.withSns (s : State) (v : Vector SenseInput 4) : State := { s with sns := v }
def State.withMkd (s : State) (m : Mkd) : State := { s with mkd := m }
def State.withIq (s : State) (q : Iq) : State := { s with iq := q }
def State.withBanks (s : State) (v : Vector Bank 2) : State := { s with banks := v }
def State.withAct (s : State) (v : Vector Line 16) : State := { s with act := v }
def State.withRun (s : State) (r : Run) : State := { s with run := r }
def State.withNtq (s : State) (n : Ntq) : State := { s with ntq := n }
def State.withSlk (s : State) (l : Slk) : State := { s with slk := l }

/-- Apply a function to every entry of a vector. -/
def mapV {α β : Type} {n : Nat} (f : α → β) (v : Vector α n) : Vector β n := ⟨⟨v.toList.map f⟩, by simp⟩

/-- Rearrange a list by a list of choices: each choice takes the entry at its index to the front. Every rearrangement
is reached by some choices, and none by the empty list (log 6, log 7). -/
def arrange {α : Type} : List Nat → List α → List α
  | [], l => l
  | k :: ks, l =>
    match l[k]? with
    | some x => x :: arrange ks (l.eraseIdx k)
    | none => arrange ks l

/-! ### Banks, stations, windows and lines -/

def allBanks : List (Fin 2) := [0, 1]
def allStationNos : List (Fin 16) := [0, 1, 2, 3, 4, 5, 6, 7, 8, 9, 10, 11, 12, 13, 14, 15]
def allWindowNos : List (Fin 4) := [0, 1, 2, 3]

/-- Every station of both banks, in the order bank, number. -/
def allStations : List (Fin 2 × Fin 16) := allBanks.flatMap fun b => allStationNos.map fun n => (b, n)

/-- Every window of both banks. -/
def allWindows : List (Fin 2 × Fin 4) := allBanks.flatMap fun b => allWindowNos.map fun w => (b, w)

def State.bank (s : State) (b : Fin 2) : Bank := s.banks[b]

def State.modBank (b : Fin 2) (f : Bank → Bank) (s : State) : State := s.withBanks (s.banks.set b (f s.banks[b]))

def State.mapBanks (f : Bank → Bank) (s : State) : State := s.withBanks (mapV f s.banks)

def State.station (s : State) (b : Fin 2) (n : Fin 16) : Station := (s.bank b).stations[n]

def Bank.modStation (n : Fin 16) (f : Station → Station) (k : Bank) : Bank :=
  { k with stations := k.stations.set n (f k.stations[n]) }

def State.modStation (b : Fin 2) (n : Fin 16) (f : Station → Station) (s : State) : State :=
  s.modBank b (Bank.modStation n f)

def State.modStationRun (b : Fin 2) (n : Fin 16) (f : StationRun → StationRun) (s : State) : State :=
  s.modStation b n fun st => { st with run := f st.run }

def State.window (s : State) (b : Fin 2) (w : Fin 4) : Window := (s.bank b).windows[w]

def Bank.modWindow (w : Fin 4) (f : Window → Window) (k : Bank) : Bank :=
  { k with windows := k.windows.set w (f k.windows[w]) }

def State.modWindow (b : Fin 2) (w : Fin 4) (f : Window → Window) (s : State) : State :=
  s.modBank b (Bank.modWindow w f)

def State.modWindowRun (b : Fin 2) (w : Fin 4) (f : WindowRun → WindowRun) (s : State) : State :=
  s.modWindow b w fun wd => { wd with run := f wd.run }

/-- Apply a function to the run state of every station of both banks. -/
def State.mapStationRuns (f : StationRun → StationRun) (s : State) : State :=
  s.mapBanks fun k => { k with stations := mapV (fun st => { st with run := f st.run }) k.stations }

/-- Apply a function to the run state of every window of both banks. -/
def State.mapWindowRuns (f : WindowRun → WindowRun) (s : State) : State :=
  s.mapBanks fun k => { k with windows := mapV (fun wd => { wd with run := f wd.run }) k.windows }

def State.line (s : State) (l : Fin 16) : Line := s.act[l]

def State.modLine (l : Fin 16) (f : Line → Line) (s : State) : State := s.withAct (s.act.set l (f s.act[l]))

def State.mapLines (f : Line → Line) (s : State) : State := s.withAct (mapV f s.act)

/-! ### Modes -/

/-- RUN or STOPPING: stations, windows and verdict closing operate (Table 51). -/
def Mode.running : Mode → Bool
  | .configure => false
  | .run => true
  | .stopping => true
  | .fault => false

def State.running (s : State) : Bool := s.run.mode.running

/-- RESETN is low: every block is held in its reset state (R135). -/
def State.held (s : State) : Bool := !s.pins.resetn

/-! ### Positions and part times (R5) -/

/-- A is at or beyond B when (A - B) modulo 2^32 is less than 2^31 (R5); the same order serves part times (spec/04). -/
def atOrBeyond (a b : BitVec 32) : Bool := decide ((a - b).toNat < 2 ^ 31)

/-- A position plus a distance, modulo 2^32 (R5). -/
def plusLu (a : Pos) (d : Nat) : Pos := a + BitVec.ofNat 32 d

/-- A position less a distance, modulo 2^32 (R5). -/
def minusLu (a : Pos) (d : Nat) : Pos := a - BitVec.ofNat 32 d

/-- The part time that is left until a deadline, 0 once it is reached. -/
def timeLeft (deadline now : Time) : Nat := if atOrBeyond now deadline then 0 else (deadline - now).toNat

/-- Whole milliseconds rounded up (R126, R134, R165). -/
def msRoundedUp (us : Nat) : Nat := (us + 999) / 1000

/-- The modulus of the count register (R4). -/
def Lei.countModulus (l : Lei) : Nat := 2 ^ (32 - l.cfg.s)

/-- The position: the count register times 2^S plus sub, modulo 2^32 (R4). -/
def Lei.position (l : Lei) : Pos := BitVec.ofNat 32 (l.countReg * 2 ^ l.cfg.s + l.sub)

/-- The excursion: the signed number of counts by which the count register lies beyond its turning point (R10). -/
def Lei.excursion (l : Lei) : Int :=
  let d := (l.countReg + l.countModulus - l.turning) % l.countModulus
  if d < l.countModulus / 2 then (d : Int) else (d : Int) - l.countModulus

/-- The frontier: the position equals the reach (Table 9). -/
def Lei.atFrontier (l : Lei) : Bool := l.position == l.reach

/-! ### What is computed from the state (log 13) -/

/-- The lead distance of a station at the present interval (R67). -/
def leadDistance (valid : Bool) (interval s : Nat) (d : StationDef) : Nat :=
  if !valid || d.leadTime == 0 then 0
  else
    min (if interval == 0 then Config.leadAtZeroInterval d.leadTime s else d.leadTime * 32 * 2 ^ s / interval) d.leadLimit

def State.lead (s : State) (b : Fin 2) (n : Fin 16) : Nat :=
  leadDistance s.lei.valid s.lei.interval s.lei.cfg.s (s.station b n).cfg

/-- The demand set of a line: the stations whose pulse is ON with that line as pulse line (R81). -/
def State.demandSet (s : State) (l : Fin 16) : List (Fin 2 × Fin 16) :=
  allStations.filter fun p => (s.station p.1 p.2).run.on && (s.station p.1 p.2).run.pulseLine == l

/-- The logical level of a line (R81). -/
def State.logicalLevel (s : State) (l : Fin 16) : Bool := (s.line l).latch || !(s.demandSet l).isEmpty

/-- Whether a pin stands at its line's active level (Table 33). -/
def State.pinActive (s : State) (l : Fin 16) : Bool :=
  match s.run.mode with
  | .configure => (s.line l).forced == .active
  | .run => s.logicalLevel l
  | .stopping => s.logicalLevel l
  | .fault => false

/-- The level of an OUT pin, true for high (R83). -/
def State.outPin (s : State) (l : Fin 16) : Bool :=
  match (s.line l).polarity with
  | .activeHigh => s.pinActive l
  | .activeLow => !s.pinActive l

/-- The active level of a sense input: its filtered level passed through its polarity (R20). -/
def SenseInput.active (i : SenseInput) : Bool :=
  match i.polarity with
  | .activeHigh => i.filt.level
  | .activeLow => !i.filt.level

def State.senseActive (s : State) (i : Fin 4) : Bool := (s.sns[i]).active

/-- FLT_IN is active while its filtered level is low (R122). -/
def State.fltActive (s : State) : Bool := !s.run.flt.level

/-! ### The item queue (R38) -/

def State.headNo (s : State) : ItemNo := (s.iq.items.head?.map (·.no)).getD 0#16

def State.tailNo (s : State) : ItemNo := (s.iq.items.getLast?.map (·.no)).getD 0#16

def State.findItem (s : State) (no : ItemNo) : Option Item := s.iq.items.find? fun i => i.no == no

def State.modItem (no : ItemNo) (f : Item → Item) (s : State) : State :=
  s.withIq { s.iq with items := s.iq.items.map fun i => if i.no == no then f i else i }

/-- The nearest item of the bank behind the item of the given number, in queue order (R65, R92). -/
def nextBehind (no : ItemNo) (b : Fin 2) (items : List Item) : Option ItemNo :=
  (((items.dropWhile fun i => i.no != no).drop 1).find? fun i => i.bank == b).map (·.no)

/-- The bank that is ACTIVE (R104). -/
def State.activeBank (s : State) : Fin 2 := if (s.bank 0).state == .active then 0 else 1

/-- The bank that is ARMED, if there is one (R104). -/
def State.armedBank (s : State) : Option (Fin 2) := allBanks.find? fun b => (s.bank b).state == .armed

def otherBank (b : Fin 2) : Fin 2 := if b = 0 then 1 else 0

end Sys2Proof.Machine
end

