-- ==== Sys2Proof/Machine/Flags.lean ====
section
/-! DEFINITION. The flag bytes of the link's layouts (spec/10), and the fault set as a set. -/

namespace Sys2Proof.Machine

/-- A byte of flags, given from bit 0 up; bits not named are 0 (R168). -/
def flagByte : List Bool → Nat
  | [] => 0
  | b :: bs => b.toNat + 2 * flagByte bs

/-- The flags of a response header (Table 72). -/
def Reply.flags (r : Reply) : Nat := flagByte [r.repeated, r.replaced, r.alreadyStopping]

def FaultSet.add (c : Cause) (f : FaultSet) : FaultSet :=
  match c with
  | .encoder => { f with encoder := true }
  | .reverseLimit => { f with reverseLimit := true }
  | .indexSlip => { f with indexSlip := true }
  | .external => { f with external := true }

def FaultSet.has (f : FaultSet) : Cause → Bool
  | .encoder => f.encoder
  | .reverseLimit => f.reverseLimit
  | .indexSlip => f.indexSlip
  | .external => f.external

/-- The fault set as one byte (Table 70). -/
def FaultSet.code (f : FaultSet) : Nat := flagByte [f.encoder, f.reverseLimit, f.indexSlip, f.external]

/-- The flags of STATUS (Table 75, offset 3). -/
def State.statusFlags (s : State) : Nat := flagByte [s.run.drain.isSome, s.fltActive, s.lei.valid]

/-- The flags of an item record (R172). -/
def Item.flags (i : Item) : Nat := flagByte [i.tag.isSome, i.closed, i.state == .decided]

/-- The flags of a station's run state (Table 80). -/
def StationRun.flags (r : StationRun) : Nat := flagByte [r.held, r.on, r.endKind == .time, r.maxOn.isSome]

/-- The flags of a window's run state (Table 82). -/
def WindowRun.flags (r : WindowRun) : Nat := flagByte [r.opened, r.seenActive, r.seenInactive]

end Sys2Proof.Machine
end

