-- ==== Sys2Proof/Machine/Formats.lean ====
section
/-! DEFINITION. The codes of enumerated values (spec/10 Table 70) and the record layouts the part sends (spec/10). -/

namespace Sys2Proof.Machine

/-! ### Numbers, most significant byte first (R168) -/

def be1 (n : Nat) : List Byte := [BitVec.ofNat 8 n]
def be2 (n : Nat) : List Byte := [BitVec.ofNat 8 (n / 256), BitVec.ofNat 8 n]
def be3 (n : Nat) : List Byte := [BitVec.ofNat 8 (n / 65536), BitVec.ofNat 8 (n / 256), BitVec.ofNat 8 n]
def be4 (n : Nat) : List Byte :=
  [BitVec.ofNat 8 (n / 16777216), BitVec.ofNat 8 (n / 65536), BitVec.ofNat 8 (n / 256), BitVec.ofNat 8 n]

/-! ### Codes (Table 70) -/

def Mode.code : Mode → Nat
  | .configure => 0 | .run => 1 | .stopping => 2 | .fault => 3

def Motion.code : Motion → Nat
  | .halted => 0 | .forward => 1 | .reverse => 2

def DetState.code : DetState → Nat
  | .idle => 0 | .off => 1 | .search => 2 | .track => 3 | .coast => 4

def Origin.code : Origin → Nat
  | .sensed => 0 | .synthetic => 1 | .injected => 2

def Verdict.code : Verdict → Nat
  | .none => 0 | .accept => 1 | .reject => 2

def VerdictSource.code : VerdictSource → Nat
  | .none => 0 | .host => 1 | .default => 2

def StationOutcome.code : StationOutcome → Nat
  | .notUsed => 0 | .pending => 1 | .fired => 2 | .merged => 3 | .skipped => 4 | .late => 5

def WindowOutcome.code : WindowOutcome → Nat
  | .notUsed => 0 | .pending => 1 | .pass => 2 | .fail => 3 | .missed => 4

def BankState.code : BankState → Nat
  | .idle => 0 | .armed => 1 | .active => 2 | .draining => 3

def Cause.code : Cause → Nat
  | .encoder => 1 | .reverseLimit => 2 | .indexSlip => 3 | .external => 4

/-- The first fault, NONE being 0 (Table 70). -/
def firstFaultCode (c : Option Cause) : Nat := (c.map Cause.code).getD 0

def Action.code : Action → Nat
  | .pulse => 0 | .set => 1 | .clear => 2 | .invert => 3

def LengthKind.code : LengthKind → Nat
  | .distance => 0 | .time => 1

def Condition.code : Condition → Nat
  | .always => 0 | .accepted => 1 | .rejected => 2 | .windowPass => 3 | .windowFail => 4

def EndCause.code : EndCause → Nat
  | .none => 0 | .target => 1 | .deadline => 2 | .superseded => 3 | .mode => 4

def Expected.code : Expected → Nat
  | .active => 0 | .inactive => 1

def Rule.code : Rule → Nat
  | .any => 0 | .all => 1

def StrayReason.code : StrayReason → Nat
  | .retrace => 0 | .short => 1 | .blanked => 2 | .early => 3

def ModeReason.code : ModeReason → Nat
  | .start => 0 | .drain => 1 | .drained => 2 | .flushed => 3 | .drainTimeout => 4 | .cleared => 5 | .reset => 6

/-- The reset kind of N_MODE, 0 where the reason is not RESET (R171). -/
def resetKindCode : Option ResetKind → Nat
  | none => 0 | some .powerOn => 1 | some .pin => 2 | some .soft => 3

def BankEvent.code : BankEvent → Nat
  | .direct => 0 | .switch => 1 | .activate => 2 | .cancel => 3

def LinkState.code : LinkState → Nat
  | .steady => 0 | .trial => 1

def RecipeReason.code : RecipeReason → Nat
  | .leadExceedsOffset => 1 | .verdictTooEarly => 2 | .windowDisabled => 3 | .windowTooLate => 4
  | .windowOverPitch => 5 | .offsetOverflow => 6

/-- Table 73. -/
def Status.code : Status → Nat
  | .ok => 0x00 | .badLength => 0x01 | .badKind => 0x02 | .badValue => 0x03 | .wrongMode => 0x04 | .busy => 0x05
  | .bankBusy => 0x06 | .bankArmed => 0x07 | .noItem => 0x08 | .late => 0x09 | .recipeInvalid => 0x0A
  | .detectorOn => 0x0B | .externalHold => 0x0C | .noChange => 0x0D | .queueFull => 0x0E

/-! ### Records -/

def nibbles (hi lo : Nat) : Byte := BitVec.ofNat 8 (hi * 16 + lo)

/-- Outcome codes two to a byte, the lower-numbered in the high four bits (R172). -/
def packNibbles : List Nat → List Byte
  | hi :: lo :: rest => nibbles hi lo :: packNibbles rest
  | _ => []

/-- The item record of Table 78, 29 bytes. -/
def Item.record (i : Item) : List Byte :=
  be2 i.no.toNat ++ be1 i.origin.code ++ be1 i.bank.val ++ be4 i.mark.toNat ++ be4 i.created.toNat ++
  be4 (i.tag.getD 0#32).toNat ++ be1 i.flags ++ be1 i.verdict.code ++ be1 i.source.code ++
  packNibbles (i.stations.toList.map StationOutcome.code) ++ packNibbles (i.windows.toList.map WindowOutcome.code)

/-- The station record of Table 79, 21 bytes. -/
def StationDef.record (b : Fin 2) (n : Fin 16) (d : StationDef) : List Byte :=
  be1 b.val ++ be1 n.val ++ be1 d.enabled.toNat ++ be1 d.line.val ++ be1 d.action.code ++ be3 d.offset ++
  be1 d.lengthKind.code ++ be3 d.length ++ be2 d.maxOn ++ be2 d.leadTime ++ be3 d.leadLimit ++ be1 d.condition.code ++
  be1 d.window.val

/-- A cursor as an item number, 0 for none (R86, R101). -/
def cursorNo (c : Option ItemNo) : Nat := (c.map BitVec.toNat).getD 0

/-- The station run state of Table 80, 16 bytes. -/
def StationRun.record (lead : Nat) (now : Time) (r : StationRun) : List Byte :=
  be2 (cursorNo r.cursor) ++ be1 r.flags ++ be3 lead ++ be1 r.pulseLine.val ++ be4 r.endTarget.toNat ++
  be2 r.opening.toNat ++ be2 ((r.maxOn.map fun d => timeLeft d now).getD 0) ++ be1 r.lastEnd.code

/-- The window record of Table 81, 12 bytes. -/
def WindowDef.record (b : Fin 2) (w : Fin 4) (d : WindowDef) : List Byte :=
  be1 b.val ++ be1 w.val ++ be1 d.enabled.toNat ++ be1 d.input.val ++ be1 d.expected.code ++ be3 d.start ++
  be3 d.length ++ be1 d.rule.code

/-- The window run state of Table 82, 14 bytes. -/
def WindowRun.record (r : WindowRun) : List Byte :=
  be2 (cursorNo r.cursor) ++ be1 r.flags ++ be2 r.recItem.toNat ++ be4 r.recStart.toNat ++ be4 r.recClose.toNat ++
  be1 r.last.code

/-- The two levels of N_ENCERR: filtered A in bit 0, filtered B in bit 1 (R171). -/
def levelByte (a b : Bool) : List Byte := be1 (flagByte [a, b])

/-- A signed 3-byte value, two's complement (R168). -/
def signed3 (d : Int) : List Byte := be3 (BitVec.ofInt 24 d).toNat

/-! ### Notices (Table 60, Table 77) -/

def NoticeBody.kind : NoticeBody → NoticeKind
  | .mark .. => .mark
  | .stray .. => .stray
  | .lost .. => .lost
  | .item .. => .item
  | .qfull .. => .qfull
  | .bank .. => .bank
  | .motion .. => .motion
  | .index .. => .index
  | .fault .. => .fault
  | .mode .. => .mode
  | .link .. => .link
  | .encErr .. => .encErr

/-- The place of a kind in the class table; its code is 41H plus this (Table 60). -/
def NoticeKind.slot : NoticeKind → Fin 12
  | .mark => 0 | .stray => 1 | .lost => 2 | .item => 3 | .qfull => 4 | .bank => 5 | .motion => 6 | .index => 7
  | .fault => 8 | .mode => 9 | .link => 10 | .encErr => 11

def NoticeKind.code (k : NoticeKind) : Byte := BitVec.ofNat 8 (0x41 + k.slot.val)

/-- The content of a notice, after its header (Table 77). -/
def NoticeBody.content : NoticeBody → List Byte
  | .mark origin number markPos reach state missRun deviation notMeasured =>
    be1 origin.code ++ be2 number.toNat ++ be4 markPos.toNat ++ be4 reach.toNat ++ be1 state.code ++ be1 missRun ++
    signed3 deviation ++ be1 notMeasured.toNat
  | .stray reason lead reach state reference =>
    be1 reason.code ++ be4 lead.toNat ++ be4 reach.toNat ++ be1 state.code ++ be4 reference.toNat
  | .lost expected missLimit reach lastItem =>
    be4 expected.toNat ++ be1 missLimit ++ be4 reach.toNat ++ be2 lastItem.toNat
  | .item record reach count => record.record ++ be4 reach.toNat ++ be1 count
  | .qfull origin markPos reach head => be1 origin.code ++ be4 markPos.toNat ++ be4 reach.toNat ++ be2 head.toNat
  | .bank event concerned state0 count0 state1 count1 first reach =>
    be1 event.code ++ be1 concerned.val ++ be1 state0.code ++ be1 count0 ++ be1 state1.code ++ be1 count1 ++
    be2 first.toNat ++ be4 reach.toNat
  | .motion new previous position reach =>
    be1 new.code ++ be1 previous.code ++ be4 position.toNat ++ be4 reach.toNat
  | .index expected measured position faultRaised =>
    be2 expected ++ be3 measured ++ be4 position.toNat ++ be1 faultRaised.toNat
  | .fault cause first faults takenIn position reach moving count head =>
    be1 cause.code ++ be1 (firstFaultCode first) ++ be1 faults.code ++ be1 takenIn.code ++ be4 position.toNat ++
    be4 reach.toNat ++ be1 moving.code ++ be1 count ++ be2 head.toNat
  | .mode new previous reason discarded first last position reach active kind =>
    be1 new.code ++ be1 previous.code ++ be1 reason.code ++ be1 discarded ++ be2 first.toNat ++ be2 last.toNat ++
    be4 position.toNat ++ be4 reach.toNat ++ be1 active.val ++ be1 (resetKindCode kind)
  | .link tried restored => be1 0 ++ be1 tried.val ++ be1 restored.val
  | .encErr position aBefore bBefore aAfter bAfter =>
    be4 position.toNat ++ levelByte aBefore bBefore ++ levelByte aAfter bAfter

end Sys2Proof.Machine
end

