-- ==== Sys2Proof/Machine/Frames.lean ====
section
/-! DEFINITION. Frames, their check value, and their bits on the line (spec/09 R149 to R151; spec/10 R170, R171). -/

namespace Sys2Proof.Machine

/-- The value at which the CRC register starts (R150). -/
def crcStart : BitVec 16 := 0xFFFF#16

/-- One shift of the CRC register toward its most significant end (R150). -/
def crcShift (c : BitVec 16) : BitVec 16 := if c.msb then (c <<< 1) ^^^ 0x1021#16 else c <<< 1

/-- The CRC register after one more byte (R150). -/
def crcByte (c : BitVec 16) (b : Byte) : BitVec 16 :=
  let c := c ^^^ (b.zeroExtend 16 <<< 8)
  crcShift (crcShift (crcShift (crcShift (crcShift (crcShift (crcShift (crcShift c)))))))

/-- The check value over a run of bytes (R150). -/
def crc16 (bytes : List Byte) : BitVec 16 := bytes.foldl crcByte crcStart

/-- What the check value covers: LEN, SEQ, KIND and the payload (R150). -/
def Frame.checked (f : Frame) : List Byte := BitVec.ofNat 8 (f.payload.length + 2) :: f.seq :: f.kind :: f.payload

/-- The bytes of a frame on the line (Table 69). -/
def Frame.bytes (f : Frame) : List Byte := 0x5A#8 :: (f.checked ++ be2 (crc16 f.checked).toNat)

/-- A response frame: SEQ of its command, KIND with the highest bit set, header and content (R151, Table 72). -/
def Response.frame (r : Response) : Frame :=
  { seq := r.seq, kind := r.kind ||| 0x80#8,
    payload := be1 r.reply.status.code ++ be1 r.reply.flags ++ be1 r.reply.detail ++ r.reply.content }

/-- A notice frame: SEQ 0, the kind code as KIND, header and content (R171, Table 76). -/
def Notice.frame (n : Notice) : Frame :=
  { seq := 0#8, kind := n.body.kind.code,
    payload := be2 n.number.toNat ++ be1 n.cls ++ be4 n.time.toNat ++ n.body.content }

/-! ### Bits on the line (R149, Table 64) -/

/-- The link rate of a rate code, in baud (Table 64). -/
def baud (rate : Fin 6) : Nat :=
  match rate with
  | 0 => 115200
  | 1 => 230400
  | 2 => 460800
  | 3 => 921600
  | 4 => 1000000
  | 5 => 2000000

/-- How many whole bits a number of fine ticks holds at a rate. -/
def bitsIn (rate : Fin 6) (ticks : Nat) : Nat := ticks * baud rate / Config.ticksPerSecond

/-- The fine tick in the middle of bit k of a byte, counted from its start bit (log 14). -/
def middleOf (rate : Fin 6) (k : Nat) : Nat := (2 * k + 1) * Config.ticksPerSecond / (2 * baud rate)

/-- Bit k of a byte on the line: a low start bit, eight data bits with the least significant first, a high stop bit
(R149). -/
def lineBit (v : Byte) (k : Nat) : Bool := if k = 0 then false else if k ≤ 8 then v.getLsbD (k - 1) else true

/-- Bit k of a frame on the line, byte after byte with no pause; high after the last (R149). -/
def Frame.lineBit (f : Frame) (k : Nat) : Bool :=
  match f.bytes[k / 10]? with
  | some v => Sys2Proof.Machine.lineBit v (k % 10)
  | none => true

/-- The level of TXD: high while the transmitter is idle, and while RESETN is low (R149, R161, R167). -/
def State.txd (s : State) : Bool :=
  s.held ||
    match s.slk.tx with
    | .idle => true
    | .sending f rate _ ticks => f.lineBit (bitsIn rate ticks)

/-- The last bit of the frame in transmission has left TXD (R149, R161). -/
def Tx.done (t : Tx) : Bool :=
  match t with
  | .idle => false
  | .sending f rate _ ticks => decide (10 * f.bytes.length ≤ bitsIn rate ticks)

end Sys2Proof.Machine
end

