-- ==== Sys2Proof/Machine/Notices.lean ====
section
/-! DEFINITION. The notice queue (spec/08) and what the transmitter takes next (spec/09 R161). -/

namespace Sys2Proof.Machine

/-- The lowest class present in a queue (R143); it is looked for in a full queue only. -/
def lowestClass : List Notice → Nat
  | [] => 0
  | n :: rest => rest.foldl (fun m k => min m k.cls) n.cls

/-- The highest class present in a queue, 0 for an empty one (R145). -/
def highestClass (q : List Notice) : Nat := q.foldl (fun m n => max m n.cls) 0

/-- The queue less its newest notice of a class (R143); queued numbers rise in queue order (R142). -/
def dropNewest (cls : Nat) (q : List Notice) : List Notice := (q.reverse.eraseP fun n => n.cls == cls).reverse

/-- A notice joins the queue, or the overflow rule decides (R142, R143). -/
def enqueueNotice (n : Notice) (q : List Notice) : List Notice :=
  if q.length < Config.noticeCapacity then q ++ [n]
  else if lowestClass q < n.cls then dropNewest (lowestClass q) q ++ [n]
  else q

/-- Discard the notice whose number is 32768 earlier than the one just taken (R139). -/
def ageOut (taken : BitVec 16) (q : List Notice) : List Notice := q.filter fun n => n.number != taken - 0x8000#16

/-- The notice handed to the link: the earliest of the highest class present (R145). -/
def takeNotice (q : List Notice) : Option (Notice × List Notice) :=
  match q.find? fun n => n.cls == highestClass q with
  | some n => some (n, q.eraseP fun n => n.cls == highestClass q)
  | none => none

/-- The transmitter, when idle, takes the oldest response, or asks for a notice if no response waits and no soft reset
is pending (R161). -/
def serve (s : State) : State :=
  match s.slk.tx with
  | .sending _ _ _ _ => s
  | .idle =>
    match s.slk.responses with
    | r :: rest => s.withSlk { s.slk with tx := .sending r.frame s.slk.rate r.role 0, responses := rest }
    | [] =>
      match s.slk.pause, takeNotice s.ntq.queue with
      | .softReset, _ => s
      | _, none => s
      | _, some (n, rest) =>
        (s.withNtq { s.ntq with queue := rest }).withSlk { s.slk with tx := .sending n.frame s.slk.rate .plain 0 }

/-- The notice queue after an offer: class 0 suppresses the kind; otherwise a number is taken, ageing is applied and
the notice is queued or shed (R138, R139, R142, R143). -/
def Ntq.offer (now : Time) (body : NoticeBody) (q : Ntq) : Ntq :=
  let cls := q.classes[body.kind.slot]
  if cls == 0 then q
  else
    { q with
      next := q.next + 1#16
      queue := enqueueNotice { number := q.next, cls := cls, time := now, body := body } (ageOut q.next q.queue) }

/-- A block offers a notice (R142). Where the free order says so, an idle transmitter takes it at once (log 8). -/
def State.offer (body : NoticeBody) (s : State) : State :=
  let s := s.withNtq (s.ntq.offer s.partTime body)
  if s.sched.noticeFirst then serve s else s

end Sys2Proof.Machine
end

