-- ==== Sys2Proof/Machine/Banks.lean ====
section
/-! DEFINITION. What the recipe banks do at creations, retirements and changes of mode (spec/06), the editing permission
and the recipe check. -/

namespace Sys2Proof.Machine

/-- N_BANK with the banks as they stand (R116). -/
def State.offerBank (event : BankEvent) (b : Fin 2) (first : ItemNo) (s : State) : State :=
  s.offer (.bank event b (s.bank 0).state (s.bank 0).count (s.bank 1).state (s.bank 1).count first s.lei.reach)

/-- An item carrying the bank has joined the queue (R105). -/
def bankJoined (b : Fin 2) (s : State) : State := s.modBank b fun k => { k with count := k.count + 1 }

/-- A bank loses one item by retirement; a DRAINING bank whose count comes to 0 becomes IDLE (R105, R106). -/
def Bank.release (k : Bank) : Bank :=
  { k with
    count := k.count - 1
    state := if k.state == .draining && k.count - 1 == 0 then .idle else k.state }

def bankRetired (b : Fin 2) (s : State) : State := s.modBank b Bank.release

/-- The state an ACTIVE bank takes at a switch: DRAINING if its count is above 0, and IDLE if it is 0 (R113). -/
def Bank.displace (k : Bank) : Bank := { k with state := if k.count == 0 then .idle else .draining }

def Bank.activate (how : Activation) (first : ItemNo) (k : Bank) : Bank :=
  { k with state := .active, activation := { how := how, first := first } }

/-- Step 1 of a creation: an ARMED bank becomes ACTIVE and N_BANK names the item about to be assigned (R42, R113). -/
def switchBanks (s : State) : State :=
  match s.armedBank with
  | none => s
  | some b =>
    ((s.modBank (otherBank b) Bank.displace).modBank b (Bank.activate .switch s.iq.next)).offerBank .switch b s.iq.next

/-- The removal of every item sets both counts to 0 and makes a DRAINING bank IDLE (R117). -/
def Bank.emptied (k : Bank) : Bank := { k with count := 0, state := if k.state == .draining then .idle else k.state }

/-- At entry to CONFIGURE an ARMED bank becomes ACTIVE and the ACTIVE bank IDLE (R118). -/
def activateAtConfigure (s : State) : State :=
  match s.armedBank with
  | none => s
  | some b =>
    ((s.modBank (otherBank b) fun k => { k with state := .idle }).modBank b (Bank.activate .switch 0#16)).offerBank
      .activate b 0#16

/-- At entry to FAULT an ARMED bank becomes IDLE (R119). -/
def cancelAtFault (s : State) : State :=
  match s.armedBank with
  | none => s
  | some b => (s.modBank b fun k => { k with state := .idle }).offerBank .cancel b 0#16

/-- The editing permission of Table 46: none when the edit is taken, or the status that refuses it (R108). -/
def editRefusal (mode : Mode) : BankState → Option Status
  | .idle => none
  | .active => if mode = .configure then none else some .bankBusy
  | .draining => some .bankBusy
  | .armed => some .bankArmed

/-! ### The recipe check (R110, Table 48) -/

def StationDef.verdictCondition (d : StationDef) : Bool := d.condition == .accepted || d.condition == .rejected

def StationDef.windowCondition (d : StationDef) : Bool := d.condition == .windowPass || d.condition == .windowFail

/-- The first enabled station that meets a failure condition, in ascending order. -/
def Bank.firstStation (k : Bank) (bad : StationDef → Bool) : Option Nat :=
  (allStationNos.find? fun n => (k.stations[n]).cfg.enabled && bad (k.stations[n]).cfg).map (·.val)

/-- The first enabled window that meets a failure condition, in ascending order. -/
def Bank.firstWindow (k : Bank) (bad : WindowDef → Bool) : Option Nat :=
  (allWindowNos.find? fun w => (k.windows[w]).cfg.enabled && bad (k.windows[w]).cfg).map (·.val)

/-- The six steps of Table 48 in order, each with the station or window it fails at. -/
def Bank.recipeSteps (k : Bank) (pitch : Nat) : List (RecipeReason × Option Nat) :=
  [(.leadExceedsOffset, k.firstStation fun d => decide (d.offset < d.leadLimit)),
   (.verdictTooEarly, k.firstStation fun d => d.verdictCondition && decide (d.offset - d.leadLimit < k.closeDistance)),
   (.windowDisabled, k.firstStation fun d => d.windowCondition && !(k.windows[d.window]).cfg.enabled),
   (.windowTooLate, k.firstStation fun d =>
      d.windowCondition &&
        decide (d.offset - d.leadLimit < (k.windows[d.window]).cfg.start + (k.windows[d.window]).cfg.length)),
   (.windowOverPitch, k.firstWindow fun d => pitch != 0 && decide (pitch ≤ d.length)),
   (.offsetOverflow, k.firstStation fun d =>
      d.action == .pulse && d.lengthKind == .distance && decide (2 ^ 24 - 1 < d.offset + d.length))]

/-- The first step that fails, with its index; none when the bank passes the check (R110). -/
def Bank.recipeFault (k : Bank) (pitch : Nat) : Option (RecipeReason × Nat) :=
  (k.recipeSteps pitch).findSome? fun p => p.2.map fun i => (p.1, i)

end Sys2Proof.Machine
end

