-- ==== Sys2Proof/Machine/RunControl.lean ====
section
/-! DEFINITION. The changes of mode and what every block does at each (spec/07 Table 52, Table 53). -/

namespace Sys2Proof.Machine

/-- What the item queue hands to run control when it removes every item (R60). -/
structure Removed where
  count : Nat
  first : ItemNo
  last : ItemNo
  deriving DecidableEq, Repr

def Removed.nothing : Removed := { count := 0, first := 0#16, last := 0#16 }

/-- N_MODE with the state as it stands after the change (R133). -/
def State.offerMode (previous : Mode) (reason : ModeReason) (gone : Removed) (kind : Option ResetKind) (s : State) : State :=
  s.offer (.mode s.run.mode previous reason gone.count gone.first gone.last s.lei.position s.lei.reach s.activeBank kind)

/-- A pulse that is ON ends with the cause given; its max-on deadline is disarmed (R77 to R80). -/
def StationRun.endPulse (cause : EndCause) (r : StationRun) : StationRun :=
  if r.on then { r with on := false, maxOn := none, lastEnd := cause } else r

def StationRun.dropCursor (r : StationRun) : StationRun := { r with cursor := none, held := false }

/-- The cursor becomes none and an open window is discarded; the record fields and the last outcome stay (R99). -/
def WindowRun.dropCursor (r : WindowRun) : WindowRun := { r with cursor := none, opened := false }

/-- Every pulse ends with cause MODE and every latch goes off (R80, R84). -/
def actuatorsOff (s : State) : State :=
  (s.mapStationRuns (StationRun.endPulse .mode)).mapLines fun l => { l with latch := false }

/-- The detector enters IDLE and drops its candidate and a deferred miss (R23). -/
def Mkd.toIdle (m : Mkd) : Mkd := { m with state := .idle, candidate := none, deferred := false }

/-- Every cursor becomes none and every open window is discarded (R66, R99). -/
def dropCursors (s : State) : State := (s.mapStationRuns StationRun.dropCursor).mapWindowRuns WindowRun.dropCursor

/-- The item queue is emptied at once and hands over the count and the numbers removed; the banks and cursors follow
(R60, R66, R99, R117). -/
def removeItems (s : State) : State × Removed :=
  (((dropCursors s).mapBanks Bank.emptied).withIq { s.iq with items := [] },
    { count := s.iq.items.length, first := s.headNo, last := s.tailNo })

/-- Entry to CONFIGURE (Table 53): the drain deadline is disarmed, pulses and latches end, the detector is IDLE, cursors
are none, the reach takes the position, an ARMED bank becomes ACTIVE, and N_MODE follows (R12, R66, R80, R84, R99, R118,
R127). The N_BANK ACTIVATE of that bank carries the reach already set to the position, the model's
choice (R116, log 23). -/
def enterConfigure (reason : ModeReason) (gone : Removed) (s : State) : State :=
  let previous := s.run.mode
  let s := s.withRun { s.run with mode := .configure, drain := none }
  let s := dropCursors (actuatorsOff s)
  let s := s.withMkd s.mkd.toIdle
  let s := s.withLei { s.lei with reach := s.lei.position }
  (activateAtConfigure s).offerMode previous reason gone none

/-- A flush, and the clearing of a fault: every item is removed and the part enters CONFIGURE (R128, R132). -/
def flushTo (reason : ModeReason) (s : State) : State := enterConfigure reason (removeItems s).2 (removeItems s).1

/-- N_FAULT (R130). -/
def State.offerFault (cause : Cause) (takenIn : Mode) (s : State) : State :=
  s.offer (.fault cause s.run.first s.run.faults takenIn s.lei.position s.lei.reach s.lei.motion s.iq.items.length s.headNo)

/-- A fault cause taken in RUN or STOPPING: entry to FAULT (R130, Table 53). -/
def enterFault (cause : Cause) (s : State) : State :=
  let takenIn := s.run.mode
  let s := s.withRun { s.run with mode := .fault, first := some cause, faults := FaultSet.empty.add cause, drain := none }
  let s := s.withLei { s.lei with subTimer := none }
  let s := actuatorsOff (s.withMkd s.mkd.toIdle)
  (cancelAtFault s).offerFault cause takenIn

/-- A fault cause taken in FAULT is added to the fault set (R131). -/
def addCause (cause : Cause) (s : State) : State :=
  (s.withRun { s.run with faults := s.run.faults.add cause }).offerFault cause .fault

/-- A fault cause, by the mode in which it is taken (R122, R130, R131). -/
def raiseCause (cause : Cause) (s : State) : State :=
  match s.run.mode with
  | .configure => s
  | .run => enterFault cause s
  | .stopping => enterFault cause s
  | .fault => addCause cause s

/-- RUN_START (R124, Table 53): the mode becomes RUN, the reach takes the position, the index reference is cleared, the
detector enters SEARCH or OFF with its run state reset, and forced levels become NONE (R12, R14, R23, R84). -/
def startRun (s : State) : State :=
  let s := s.withRun { s.run with mode := .run }
  let s := s.withLei { s.lei with reach := s.lei.position, indexRef := false }
  let s := s.withMkd { s.mkd with
    state := if s.mkd.cfg.enable then .search else .off
    missRun := 0, expected := 0#32, lastAccepted := none, lastCreated := 0#16, candidate := none, deferred := false }
  let s := s.mapLines fun l => { l with forced := .none }
  s.offerMode .configure .start .nothing none

/-- RUN_STOP DRAIN taken in RUN (R125): STOPPING, the drain deadline armed for a limit other than 0, and N_MODE; an empty
queue ends the drain at once (R127). -/
def startDrain (limitMs : Nat) (s : State) : State :=
  let s := s.withRun { s.run with
    mode := .stopping
    drain := if limitMs == 0 then none else some (s.partTime + BitVec.ofNat 32 (limitMs * 1000)) }
  let s := (s.withMkd s.mkd.toIdle).offerMode .run .drain .nothing none
  if s.iq.items.isEmpty then enterConfigure .drained .nothing s else s

end Sys2Proof.Machine
end

