-- ==== Sys2Proof/Machine/Queue.lean ====
section
/-! DEFINITION. The item queue: settling, retirement and verdict closing (spec/03). -/

namespace Sys2Proof.Machine

/-- An item's business is finished: verdict closed, no outcome PENDING (R49). -/
def Item.settled (i : Item) : Bool :=
  i.closed && !i.stations.toList.contains .pending && !i.windows.toList.contains .pending

/-- The DECIDED test (R49); a DECIDED item does not return to TRACKING. -/
def Item.decidedTest (i : Item) : Item := if i.settled then { i with state := .decided } else i

/-- Retirement of DECIDED items from the head: N_ITEM, the reference count, and in STOPPING the end of the drain when the
queue is empty (R50, R51, R52, R127). -/
def retireLoop : List Item → State → State
  | [], s => s
  | i :: rest, s =>
    if i.state = .decided then
      let s := s.withIq { s.iq with items := rest }
      let s := s.offer (.item i s.lei.reach rest.length)
      let s := bankRetired i.bank s
      let s := if s.run.mode == .stopping && rest.isEmpty then enterConfigure .drained .nothing s else s
      retireLoop rest s
    else s

def retireHeads (s : State) : State := retireLoop s.iq.items s

/-- The DECIDED test of one item, and the retirements it allows (R49, R50). -/
def settleItem (no : ItemNo) (s : State) : State := retireHeads (s.modItem no Item.decidedTest)

/-- A station outcome is taken only in the place of PENDING (R41). -/
def Item.writeStation (n : Fin 16) (o : StationOutcome) (i : Item) : Item :=
  if i.stations[n] = .pending then { i with stations := i.stations.set n o } else i

/-- A window outcome is taken only in the place of PENDING (R41). -/
def Item.writeWindow (w : Fin 4) (o : WindowOutcome) (i : Item) : Item :=
  if i.windows[w] = .pending then { i with windows := i.windows.set w o } else i

/-- IQ takes a station's outcome and applies the DECIDED test (R41, R71). -/
def writeStation (no : ItemNo) (n : Fin 16) (o : StationOutcome) (s : State) : State :=
  settleItem no (s.modItem no (Item.writeStation n o))

/-- IQ takes a window's outcome and applies the DECIDED test (R41, R97). -/
def writeWindow (no : ItemNo) (w : Fin 4) (o : WindowOutcome) (s : State) : State :=
  settleItem no (s.modItem no (Item.writeWindow w o))

/-- Closing: NONE takes the bank's default verdict with source DEFAULT; a verdict of the host keeps (R46). -/
def Item.close (dflt : Verdict) (i : Item) : Item :=
  if i.verdict = .none then { i with verdict := dflt, source := .default, closed := true } else { i with closed := true }

/-- The close point of an item is reached (R45). -/
def State.closeDue (s : State) (i : Item) : Bool :=
  !i.closed && atOrBeyond s.lei.reach (plusLu i.mark (s.bank i.bank).closeDistance)

/-- IQ closes the verdict of one item and applies the DECIDED test (R45, R46). -/
def closeItem (i : Item) (s : State) : State :=
  settleItem i.no (s.modItem i.no (Item.close (s.bank i.bank).defaultVerdict))

end Sys2Proof.Machine
end

