-- ==== Sys2Proof/Machine/Stations.lean ====
section
/-! DEFINITION. The station engine: due tests, conditions, decisions, pulses and cursors (spec/04). -/

namespace Sys2Proof.Machine

/-! ### Conditions (R69) -/

/-- The condition on an item as it stands; none when it cannot yet be evaluated (R69). -/
def StationDef.evaluate (d : StationDef) (i : Item) : Option Bool :=
  match d.condition with
  | .always => some true
  | .accepted => if i.closed then some (i.verdict == .accept) else none
  | .rejected => if i.closed then some (i.verdict == .reject) else none
  | .windowPass =>
    match i.windows[d.window] with
    | .pending => none
    | o => some (o == .pass)
  | .windowFail =>
    match i.windows[d.window] with
    | .pending => none
    | o => some (o == .fail || o == .missed)

/-! ### Points along the line (4.1, R68, R73) -/

def StationDef.nominalStart (d : StationDef) (i : Item) : Pos := plusLu i.mark d.offset

def StationDef.effectiveStart (d : StationDef) (lead : Nat) (i : Item) : Pos := minusLu (d.nominalStart i) lead

def StationDef.endTarget (d : StationDef) (lead : Nat) (i : Item) : Pos := minusLu (plusLu (d.nominalStart i) d.length) lead

/-- The cursor item is due when the reach is at or beyond its effective start (R68). -/
def State.due (s : State) (b : Fin 2) (n : Fin 16) (i : Item) : Bool :=
  atOrBeyond s.lei.reach ((s.station b n).cfg.effectiveStart (s.lead b n) i)

/-! ### Actions (R72 to R75) -/

/-- The max-on deadline for a pulse that starts or merges now; none for max on time 0 (R73). -/
def maxOnDeadline (now : Time) (maxOn : Nat) : Option Time :=
  if maxOn == 0 then none else some (now + BitVec.ofNat 32 maxOn)

/-- A pulse starts (R73, R74). -/
def StationRun.startPulse (line : Fin 16) (kind : LengthKind) (target : BitVec 32) (item : ItemNo)
    (deadline : Option Time) (r : StationRun) : StationRun :=
  { r with on := true, pulseLine := line, endKind := kind, endTarget := target, opening := item, maxOn := deadline }

/-- A pulse is extended: its end target becomes the later of the two and an armed deadline moves (R73, R74). -/
def StationRun.mergePulse (target : BitVec 32) (deadline : Option Time) (r : StationRun) : StationRun :=
  { r with
    endTarget := if atOrBeyond target r.endTarget then target else r.endTarget
    maxOn := if deadline.isSome then deadline else r.maxOn }

/-- A PULSE decision on the station's run state: start, merge, or end as SUPERSEDED and start (R73, R74, R75). -/
def StationRun.pulse (line : Fin 16) (kind : LengthKind) (target : BitVec 32) (item : ItemNo) (deadline : Option Time)
    (r : StationRun) : StationRun × StationOutcome :=
  if r.on then
    if r.pulseLine = line ∧ r.endKind = kind then (r.mergePulse target deadline, .merged)
    else ((r.endPulse .superseded).startPulse line kind target item deadline, .fired)
  else (r.startPulse line kind target item deadline, .fired)

/-- Apply a PULSE decision to one station. -/
def pulseStation (b : Fin 2) (n : Fin 16) (kind : LengthKind) (target : BitVec 32) (item : ItemNo)
    (deadline : Option Time) (s : State) : State × StationOutcome :=
  let r := (s.station b n).run.pulse (s.station b n).cfg.line kind target item deadline
  (s.modStationRun b n fun _ => r.1, r.2)

/-- The action of a station whose condition is true (R72, R73, R74). -/
def stationAction (b : Fin 2) (n : Fin 16) (i : Item) (s : State) : State × StationOutcome :=
  let d := (s.station b n).cfg
  match d.action with
  | .set => (s.modLine d.line fun l => { l with latch := true }, .fired)
  | .clear => (s.modLine d.line fun l => { l with latch := false }, .fired)
  | .invert => (s.modLine d.line fun l => { l with latch := !l.latch }, .fired)
  | .pulse =>
    match d.lengthKind with
    | .distance =>
      let target := d.endTarget (s.lead b n) i
      if atOrBeyond s.lei.reach target then (s, .late)
      else pulseStation b n .distance target i.no (maxOnDeadline s.partTime d.maxOn) s
    | .time => pulseStation b n .time (s.partTime + BitVec.ofNat 32 d.length) i.no none s

/-- A decision with the condition's value: SKIPPED when it is false, the action otherwise (R71). -/
def stationAct (b : Fin 2) (n : Fin 16) (i : Item) (condition : Bool) (s : State) : State × StationOutcome :=
  if condition then stationAction b n i s else (s, .skipped)

/-- One decision: action, outcome written into the item, cursor advanced, held flag cleared (R65, R71). -/
def decideStation (b : Fin 2) (n : Fin 16) (i : Item) (condition : Bool) (s : State) : State :=
  let next := nextBehind i.no b s.iq.items
  let acted := stationAct b n i condition s
  (writeStation i.no n acted.2 acted.1).modStationRun b n fun r => { r with cursor := next, held := false }

/-- The due test, and the decisions it leads to one after another in queue order; a due item whose condition cannot yet
be evaluated holds the station (R65, R68, R70). The bound is met: each decision moves the cursor down the queue. -/
def stationLoop (b : Fin 2) (n : Fin 16) : Nat → State → State
  | 0, s => s
  | fuel + 1, s =>
    if s.running then
      match (s.station b n).run.cursor.bind s.findItem with
      | none => s
      | some i =>
        if s.due b n i then
          match (s.station b n).cfg.evaluate i with
          | none => s.modStationRun b n fun r => { r with held := true }
          | some c => stationLoop b n fuel (decideStation b n i c s)
        else s
    else s

/-- The due test of one station (R68). -/
def stationTest (b : Fin 2) (n : Fin 16) (s : State) : State := stationLoop b n (s.iq.items.length + 1) s

/-- A held station whose awaited event has come decides its cursor item, whatever the effective start has become, and
goes on with the due test (R70). -/
def releaseStation (b : Fin 2) (n : Fin 16) (s : State) : State :=
  if s.running then
    match (s.station b n).run.cursor.bind s.findItem with
    | none => s
    | some i =>
      match (s.station b n).cfg.evaluate i with
      | none => s
      | some c => stationTest b n (decideStation b n i c s)
  else s

/-- The stations of a bank that are held on an item and wait on the event described. -/
def heldOn (b : Fin 2) (no : ItemNo) (waits : StationDef → Bool) (s : State) : List (Fin 16) :=
  allStationNos.filter fun n =>
    (s.station b n).run.held && (s.station b n).run.cursor == some no && waits (s.station b n).cfg

/-- Every station held on the event for the item decides at once (R45, R70, R97). -/
def releaseHeld (b : Fin 2) (no : ItemNo) (waits : StationDef → Bool) (s : State) : State :=
  (arrange s.sched.release (heldOn b no waits s)).foldl (fun s n => releaseStation b n s) s

/-- The closing of one item, made known to the station engine at once (R45, R70). -/
def closeVerdict (i : Item) (s : State) : State :=
  releaseHeld i.bank i.no StationDef.verdictCondition (closeItem i s)

/-- The verdict close test of every item, in queue order (R45). -/
def closeVerdicts (s : State) : State :=
  s.iq.items.foldl (fun s i => if s.running && s.closeDue i then closeVerdict i s else s) s

/-! ### Pulse ends (R77, R78, R79) -/

/-- The reach is at or beyond the end target of a DISTANCE pulse that is ON (R77). -/
def State.distanceEndDue (s : State) (b : Fin 2) (n : Fin 16) : Bool :=
  (s.station b n).run.on && (s.station b n).run.endKind == .distance &&
    atOrBeyond s.lei.reach (s.station b n).run.endTarget

/-- The end of a pulse with its cause. -/
def endPulseOf (b : Fin 2) (n : Fin 16) (cause : EndCause) (s : State) : State :=
  s.modStationRun b n (StationRun.endPulse cause)

def distanceEnd (b : Fin 2) (n : Fin 16) (s : State) : State :=
  if s.running && s.distanceEndDue b n then endPulseOf b n .target s else s

/-- Part time has reached the armed max-on deadline of a pulse that is ON (R78). -/
def State.maxOnDue (s : State) (b : Fin 2) (n : Fin 16) : Bool :=
  (s.station b n).run.on && ((s.station b n).run.maxOn.map fun d => atOrBeyond s.partTime d).getD false

/-- Part time has reached the end target of a TIME pulse that is ON (R79). -/
def State.timeEndDue (s : State) (b : Fin 2) (n : Fin 16) : Bool :=
  (s.station b n).run.on && (s.station b n).run.endKind == .time && atOrBeyond s.partTime (s.station b n).run.endTarget

end Sys2Proof.Machine
end

