-- ==== Sys2Proof/Machine/Windows.lean ====
section
/-! DEFINITION. The check windows: opening, watching, closing and resolution (spec/05). -/

namespace Sys2Proof.Machine

def WindowDef.startPoint (d : WindowDef) (i : Item) : Pos := plusLu i.mark d.start

def WindowDef.closePoint (d : WindowDef) (i : Item) : Pos := plusLu i.mark (d.start + d.length)

/-- The outcome that the rule gives at once from the seen flags, if any (R94, Table 39). -/
def WindowDef.early (d : WindowDef) (seenActive seenInactive : Bool) : Option WindowOutcome :=
  let seenExpected := match d.expected with
    | .active => seenActive
    | .inactive => seenInactive
  let seenOther := match d.expected with
    | .active => seenInactive
    | .inactive => seenActive
  match d.rule with
  | .any => if seenExpected then some .pass else none
  | .all => if seenOther then some .fail else none

/-- The outcome at the close point (R95). -/
def Rule.atClose : Rule → WindowOutcome
  | .any => .fail
  | .all => .pass

/-- The record of a window for an item (R93). -/
def WindowRun.note (d : WindowDef) (i : Item) (opened seenActive seenInactive : Bool) (r : WindowRun) : WindowRun :=
  { r with
    opened := opened, recItem := i.no, recStart := d.startPoint i, recClose := d.closePoint i,
    seenActive := seenActive, seenInactive := seenInactive }

/-- The opening with the input's present state sampled (R93). -/
def openWindow (b : Fin 2) (w : Fin 4) (i : Item) (s : State) : State :=
  let d := (s.window b w).cfg
  s.modWindowRun b w (WindowRun.note d i true (s.senseActive d.input) (!s.senseActive d.input))

/-- A resolution: the outcome is written, the window closes, held stations decide and the cursor advances. R97 allows the
decisions and the advance with its opening test in either order; the decisions come before the opening test, the model's
choice (R92, R97, log 6). -/
def resolveWindow (b : Fin 2) (w : Fin 4) (i : Item) (o : WindowOutcome) (s : State) : State :=
  let next := nextBehind i.no b s.iq.items
  let s := writeWindow i.no w o s
  let s := s.modWindowRun b w fun r => { r with last := o, opened := false, cursor := next }
  releaseHeld b i.no (fun d => d.windowCondition && d.window == w) s

/-- What a window does with its cursor item at the present reach: the close test when open, the opening test when not;
the result is the state and the outcome of a resolution that follows at once (R93, R94, R95, Table 38). -/
def windowTest (b : Fin 2) (w : Fin 4) (i : Item) (s : State) : State × Option WindowOutcome :=
  let d := (s.window b w).cfg
  let r := (s.window b w).run
  if r.opened then
    if atOrBeyond s.lei.reach r.recClose then (s, some d.rule.atClose) else (s, none)
  else if atOrBeyond s.lei.reach (d.startPoint i) then
    if atOrBeyond s.lei.reach (d.closePoint i) then
      (s.modWindowRun b w (WindowRun.note d i false false false), some .missed)
    else (openWindow b w i s, d.early (s.senseActive d.input) (!s.senseActive d.input))
  else (s, none)

/-- The tests of one window, item after item while each resolves (R95). The bound is met: each resolution moves the cursor
down the queue. -/
def windowLoop (b : Fin 2) (w : Fin 4) : Nat → State → State
  | 0, s => s
  | fuel + 1, s =>
    if s.running then
      match (s.window b w).run.cursor.bind s.findItem with
      | none => s
      | some i =>
        match windowTest b w i s with
        | (s, none) => s
        | (s, some o) => windowLoop b w fuel (resolveWindow b w i o s)
    else s

/-- The opening and close tests of one window at the present reach (R93, R95). -/
def windowAdvance (b : Fin 2) (w : Fin 4) (s : State) : State := windowLoop b w (s.iq.items.length + 1) s

/-- An edge of the input of an open window sets a seen flag, and may resolve the window (R94). -/
def windowEdge (b : Fin 2) (w : Fin 4) (input : Fin 4) (active : Bool) (s : State) : State :=
  if s.running && (s.window b w).run.opened && (s.window b w).cfg.input == input then
    let s := s.modWindowRun b w fun r =>
      { r with seenActive := r.seenActive || active, seenInactive := r.seenInactive || !active }
    match (s.window b w).cfg.early (s.window b w).run.seenActive (s.window b w).run.seenInactive,
        (s.window b w).run.cursor.bind s.findItem with
    | some o, some i => windowAdvance b w (resolveWindow b w i o s)
    | _, _ => s
  else s

end Sys2Proof.Machine
end

