-- ==== Sys2Proof/Machine/Creation.lean ====
section
/-! DEFINITION. The creation of an item (spec/03 R39 to R44). -/

namespace Sys2Proof.Machine

/-- The successor of an item number: 1 follows 65535 (R39). -/
def nextItemNo (n : ItemNo) : ItemNo := if n = 65535#16 then 1#16 else n + 1#16

/-- PENDING for an enabled station or window, NOT_USED for a disabled one (R41). -/
def Bank.stationEntries (k : Bank) : Vector StationOutcome 16 :=
  mapV (fun st => if st.cfg.enabled then .pending else .notUsed) k.stations

def Bank.windowEntries (k : Bank) : Vector WindowOutcome 4 :=
  mapV (fun wd => if wd.cfg.enabled then .pending else .notUsed) k.windows

/-- The record of a new item (R40, R41, Table 24). -/
def State.newItem (s : State) (origin : Origin) (mark : Pos) : Item :=
  { no := s.iq.next, origin := origin, bank := s.activeBank, mark := mark, created := s.partTime, tag := none,
    verdict := .none, source := .none, closed := false, stations := (s.bank s.activeBank).stationEntries,
    windows := (s.bank s.activeBank).windowEntries, state := .tracking }

/-- A station or a window of the new item's bank that may take up the item (R42, step 6). -/
inductive Taker where
  | station (n : Fin 16)
  | window (w : Fin 4)
  deriving DecidableEq, Repr

def allTakers : List Taker := allStationNos.map .station ++ allWindowNos.map .window

/-- A station or window whose cursor is none, and whose entry in the new item is PENDING, takes the item up and applies its
due or opening test (R64, R92). -/
def takeUp (b : Fin 2) (no : ItemNo) (t : Taker) (s : State) : State :=
  match s.findItem no with
  | none => s
  | some i =>
    match t with
    | .station n =>
      if (s.station b n).run.cursor.isNone && i.stations[n] == .pending then
        stationTest b n (s.modStationRun b n fun r => { r with cursor := some no })
      else s
    | .window w =>
      if (s.window b w).run.cursor.isNone && i.windows[w] == .pending then
        windowAdvance b w (s.modWindowRun b w fun r => { r with cursor := some no })
      else s

/-- Steps 2 and 3 of a creation: the record joins the queue at the tail, the next item number advances and the bank's
reference count rises (R39, R42, R105). -/
def joinQueue (i : Item) (s : State) : State :=
  bankJoined i.bank (s.withIq { items := s.iq.items ++ [i], next := nextItemNo s.iq.next })

/-- A creation that is not refused, step by step (R42). -/
def makeItem (origin : Origin) (mark : Pos) (s : State) : State :=
  let s := switchBanks s
  let i := s.newItem origin mark
  let s := joinQueue i s
  let s := if s.closeDue i then closeVerdict i s else s
  let s := settleItem i.no s
  (arrange s.sched.uptake allTakers).foldl (fun s t => takeUp i.bank i.no t s) s

/-- A creation request: refused with N_QFULL when 48 items are queued, else taken. The number is 0 for a refusal (R42,
R44). -/
def createItem (origin : Origin) (mark : Pos) (s : State) : State × ItemNo :=
  if Config.itemCapacity ≤ s.iq.items.length then (s.offer (.qfull origin mark s.lei.reach s.headNo), 0#16)
  else (makeItem origin mark s, s.iq.next)

end Sys2Proof.Machine
end

