-- ==== Sys2Proof/Machine/Detector.lean ====
section
/-! DEFINITION. The mark detector (spec/02). -/

namespace Sys2Proof.Machine

/-- SEARCH, TRACK and COAST see edges (Table 19). -/
def DetState.sees : DetState → Bool
  | .idle => false
  | .off => false
  | .search => true
  | .track => true
  | .coast => true

/-- TRACK and COAST have a window in force (Table 19). -/
def DetState.locked : DetState → Bool
  | .idle => false
  | .off => false
  | .search => false
  | .track => true
  | .coast => true

/-- The ends of the acceptance window, both included (R28). -/
def Mkd.windowStart (m : Mkd) : Pos := minusLu m.expected m.cfg.tolerance
def Mkd.windowEnd (m : Mkd) : Pos := plusLu m.expected m.cfg.tolerance

/-- The first position beyond the window (2.6). -/
def Mkd.closePoint (m : Mkd) : Pos := plusLu m.expected (m.cfg.tolerance + 1)

/-- A leading edge lies inside the window (R28). -/
def Mkd.inWindow (m : Mkd) (lead : Pos) : Bool := atOrBeyond lead m.windowStart && atOrBeyond m.windowEnd lead

/-- N_STRAY in the detector's present state (R34). -/
def State.offerStray (reason : StrayReason) (lead reference : Pos) (s : State) : State :=
  s.offer (.stray reason lead s.lei.reach s.mkd.state reference)

/-- A request for an item, its number kept as the last created, and N_MARK after it (R32, R33). -/
def requestItem (origin : Origin) (mark : Pos) (update : Mkd → Mkd) (deviation : Int) (notMeasured : Bool)
    (s : State) : State :=
  let made := createItem origin mark s
  let s := made.1
  let s := s.withMkd { update s.mkd with lastCreated := made.2 }
  s.offer (.mark origin made.2 mark s.lei.reach s.mkd.state s.mkd.missRun deviation notMeasured)

/-- A miss: the mark is synthesised within the miss limit, and lost beyond it (R30). -/
def missMark (s : State) : State :=
  if s.mkd.missRun + 1 ≤ s.mkd.cfg.missLimit then
    requestItem .synthetic s.mkd.expected
      (fun m => { m with
        missRun := m.missRun + 1, lastAccepted := some m.expected, expected := plusLu m.expected m.cfg.pitch,
        state := .coast })
      0 true s
  else
    let s := s.offer (.lost s.mkd.expected s.mkd.cfg.missLimit s.lei.reach s.mkd.lastCreated)
    s.withMkd { s.mkd with missRun := 0, state := .search }

/-- The reach is at or beyond the close point of the window in force (R29). -/
def State.windowPassed (s : State) : Bool := s.mkd.state.locked && atOrBeyond s.lei.reach s.mkd.closePoint

/-- The close test, repeated while each miss sets a window whose close point the reach has already passed (R29, R31). An
in-window candidate defers the miss. The bound is met: each pass but the last raises the miss run within the miss limit. -/
def closeLoop : Nat → State → State
  | 0, s => s
  | fuel + 1, s =>
    if s.windowPassed then
      if (s.mkd.candidate.map s.mkd.inWindow).getD false then s.withMkd { s.mkd with deferred := true }
      else closeLoop fuel (missMark s)
    else s

/-- The close test at the present reach (R29, R31). -/
def closeTest (s : State) : State := closeLoop (s.mkd.cfg.missLimit + 2) s

/-- An acceptance in a pitch-tracking state: SENSED at the leading edge, TRACK, and the close test of the new window (R28,
R31). -/
def acceptLocked (lead : Pos) (deviation : Int) (notMeasured : Bool) (s : State) : State :=
  closeTest (requestItem .sensed lead
    (fun m => { m with
      lastAccepted := some lead, expected := plusLu lead m.cfg.pitch, missRun := 0, state := .track })
    deviation notMeasured s)

/-- The signed distance of the leading edge from the expected position (R33). -/
def deviationOf (lead expected : Pos) : Int := (lead - expected).toInt

/-- Judgement in SEARCH: free mode applies blanking; with a pitch the candidate is accepted (R27, R28). -/
def judgeSearch (lead : Pos) (s : State) : State :=
  if s.mkd.cfg.pitch = 0 then
    match s.mkd.lastAccepted with
    | some last =>
      if atOrBeyond lead (plusLu last s.mkd.cfg.blanking) then
        requestItem .sensed lead (fun m => { m with lastAccepted := some lead }) 0 true s
      else s.offerStray .blanked lead last
    | none => requestItem .sensed lead (fun m => { m with lastAccepted := some lead }) 0 true s
  else acceptLocked lead 0 true s

/-- Judgement in TRACK and COAST (R28): EARLY short of the window, else accepted. -/
def judgeLocked (lead : Pos) (s : State) : State :=
  if atOrBeyond lead s.mkd.windowStart then acceptLocked lead (deviationOf lead s.mkd.expected) false s
  else s.offerStray .early lead s.mkd.windowStart

/-- A window that the leading edge lies beyond has closed and moved on before the judgement (R28). -/
def closeBefore (lead : Pos) (s : State) : State :=
  if s.mkd.state.locked && !atOrBeyond s.mkd.windowEnd lead then closeTest s else s

/-- Judgement by the state in force (R27, R28, Table 21). -/
def judgeState (lead : Pos) (s : State) : State :=
  match s.mkd.state with
  | .idle => s
  | .off => s
  | .search => judgeSearch lead s
  | .track => judgeLocked lead s
  | .coast => judgeLocked lead s

/-- A valid candidate is judged once and ceases to exist; a deferred miss is cleared (R26, R27, R29). -/
def judge (lead : Pos) (s : State) : State :=
  let s := s.withMkd { s.mkd with candidate := none, deferred := false }
  let s := closeBefore lead s
  match s.mkd.lastAccepted with
  | some last => if atOrBeyond lead last then judgeState lead s else s.offerStray .early lead last
  | none => judgeState lead s

/-- The qualification test at an advance of the reach (R26). -/
def qualify (s : State) : State :=
  match s.mkd.candidate with
  | none => s
  | some lead =>
    if s.mkd.state.sees && atOrBeyond s.lei.reach (plusLu lead s.mkd.cfg.minLength) then judge lead s else s

/-- In SEARCH the last accepted position becomes none 2^30 lu behind the reach (R27). -/
def releaseLastAccepted (s : State) : State :=
  match s.mkd.state, s.mkd.lastAccepted with
  | .search, some last =>
    if atOrBeyond s.lei.reach (plusLu last (2 ^ 30)) then s.withMkd { s.mkd with lastAccepted := none } else s
  | _, _ => s

/-- A mark edge (R24, R25): ignored while a candidate exists; at the frontier it opens one, judged at once when the minimum
mark length is 0; short of the reach it is a RETRACE stray. -/
def markEdge (s : State) : State :=
  match s.mkd.candidate with
  | some _ => s
  | none =>
    if s.lei.atFrontier then
      if s.mkd.cfg.minLength = 0 then judge s.lei.reach s else s.withMkd { s.mkd with candidate := some s.lei.reach }
    else s.offerStray .retrace s.lei.position 0#32

/-- A level loss ends a candidate as SHORT and releases a deferred miss (R26, R29, R31). -/
def levelLoss (s : State) : State :=
  match s.mkd.candidate with
  | none => s
  | some lead =>
    let deferred := s.mkd.deferred
    let s := s.offerStray .short lead 0#32
    let s := s.withMkd { s.mkd with candidate := none, deferred := false }
    if deferred then closeTest (missMark s) else s

/-- The selected edge is a mark edge, a change of the other kind a level loss (R24). -/
def EdgeKind.marks : EdgeKind → Bool → Bool
  | .rising, active => active
  | .falling, active => !active

/-- An edge of a sense input at the detector (R24). -/
def detectorEdge (input : Fin 4) (active : Bool) (s : State) : State :=
  if s.mkd.state.sees && s.mkd.cfg.input == input then
    if s.mkd.cfg.edge.marks active then markEdge s else levelLoss s
  else s

end Sys2Proof.Machine
end

