-- ==== Sys2Proof/Machine/Line.lean ====
section
/-! DEFINITION. The line encoder interface: counting, interval, motion, reach, sub-steps and the index counter (spec/01). -/

namespace Sys2Proof.Machine

/-! ### Decoding (R2, Table 10, Table 11) -/

/-- A change of A is forward travel when the new levels differ, a change of B when they are equal (Table 10). -/
def quadrature (phase : Phase) (a b : Bool) : Dir :=
  match phase with
  | .a => if a != b then .forward else .reverse
  | .b => if a == b then .forward else .reverse

/-- Whether a change counts in a counting mode; the level is that of A after the change (Table 11). -/
def CountMode.counts (m : CountMode) (phase : Phase) (a : Bool) : Bool :=
  match m, phase with
  | .x4, _ => true
  | .x2, .a => true
  | .x2, .b => false
  | .x1, .a => a
  | .x1, .b => false

def Dir.flip : Dir → Dir
  | .forward => .reverse
  | .reverse => .forward

/-- The count that a change of one filtered level gives, if any, from the levels after it (R2). -/
def LineCfg.decode (c : LineCfg) (phase : Phase) (a b : Bool) : Option Dir :=
  if c.countMode.counts phase a then
    some (if c.invert then (quadrature phase a b).flip else quadrature phase a b)
  else none

/-! ### The parts of a count -/

/-- The count register moves by one and sub becomes 0 (R4). -/
def Lei.move (d : Dir) (l : Lei) : Lei :=
  { l with
    countReg := match d with
      | .forward => (l.countReg + 1) % l.countModulus
      | .reverse => (l.countReg + l.countModulus - 1) % l.countModulus
    sub := 0 }

/-- The interval measurement and the same-direction run (R6). -/
def Lei.measure (d : Dir) (l : Lei) : Lei :=
  match l.sameDir with
  | none => { l with valid := false, sameDir := some { dir := d, measured := 0 }, sinceCount := 0 }
  | some r =>
    if r.dir = d then
      { l with
        interval := min l.sinceCount Config.maxInterval
        valid := l.valid || decide (1 ≤ r.measured)
        sameDir := some { dir := d, measured := min (r.measured + 1) 2 }
        sinceCount := 0 }
    else { l with valid := false, sameDir := some { dir := d, measured := 0 }, sinceCount := 0 }

/-- The motion state takes a value, and the turning point the present count (R9, R10). -/
def Lei.turn (m : Motion) (l : Lei) : Lei := { l with motion := m, turning := l.countReg }

/-- The motion state and the turning point after a count has moved the count register (R10). -/
def Lei.track (d : Dir) (l : Lei) : Lei :=
  let beyond := decide ((l.cfg.revThreshold : Int) < l.excursion)
  let below := decide (l.excursion < -(l.cfg.revThreshold : Int))
  match l.motion, d with
  | .forward, .forward => if 0 < l.excursion then l.turn .forward else l
  | .forward, .reverse => if below then l.turn .reverse else l
  | .reverse, .reverse => if l.excursion < 0 then l.turn .reverse else l
  | .reverse, .forward => if beyond then l.turn .forward else l
  | .halted, _ => if beyond then l.turn .forward else if below then l.turn .reverse else l

/-- The index counter and its reference flag at a count (R14). -/
def Lei.indexOnCount (d : Dir) (l : Lei) : Lei :=
  let l' :=
    if l.cfg.perIndex = 0 then l
    else match d with
      | .forward =>
        { l with
          indexCount := min (l.indexCount + 1) 131071
          indexRef := if l.lastDir = some .reverse then false else l.indexRef }
      | .reverse => { l with indexRef := false }
  { l' with lastDir := some d }

/-- The reach after a change of the position, by the mode (R11, R12). -/
def Lei.follow (mode : Mode) (l : Lei) : Lei :=
  match mode with
  | .configure => { l with reach := l.position }
  | .run => if atOrBeyond l.position l.reach then { l with reach := l.position } else l
  | .stopping => if atOrBeyond l.position l.reach then { l with reach := l.position } else l
  | .fault => l

/-- The sub-step period (R7). -/
def Lei.period (l : Lei) : Nat := max 1 (l.interval / 2 ^ l.cfg.s)

/-- The conditions under which a sub-step is generated (R7). -/
def Lei.subStepsOn (mode : Mode) (l : Lei) : Bool :=
  l.motion == .forward && l.valid && l.atFrontier && decide (l.sub + 1 < 2 ^ l.cfg.s) && mode != .fault

/-- The sub-step timer starts anew, or stops if a condition fails (R7). -/
def Lei.restartSub (mode : Mode) (l : Lei) : Lei :=
  { l with subTimer := if l.subStepsOn mode then some l.period else none }

/-- One count, whole: position, interval, motion state, index counter, standstill watch, reach and sub-step timer (R4, R6,
R7, R9, R10, R11, R12, R14). -/
def Lei.count (mode : Mode) (d : Dir) (now : Time) (l : Lei) : Lei :=
  let l := (((l.move d).measure d).track d).indexOnCount d
  let l := { l with standstill := some now }.follow mode
  match d with
  | .forward => l.restartSub mode
  | .reverse => { l with subTimer := none }

/-- The sub-step timer has run out while every condition holds (R7). -/
def Lei.subStepDue (mode : Mode) (l : Lei) : Bool := l.subTimer == some 0 && l.subStepsOn mode

/-- One sub-step (R7). -/
def Lei.subStep (mode : Mode) (l : Lei) : Lei := ({ l with sub := l.sub + 1 }.follow mode).restartSub mode

/-- The interval is no longer valid, the same-direction run is over and the sub-step timer stops (R3, R6, R7, R9). -/
def Lei.endRun (l : Lei) : Lei := { l with valid := false, sameDir := none, subTimer := none }

/-- No count for the standstill limit (R9). -/
def Lei.standstillDue (now : Time) (l : Lei) : Bool :=
  match l.standstill with
  | none => false
  | some since => decide (l.cfg.standstillMs * 1000 ≤ (now - since).toNat)

/-- The standstill watch expires (R9). -/
def Lei.standStill (l : Lei) : Lei :=
  let l := { l.endRun with standstill := none }
  if l.motion = .halted then l else l.turn .halted

/-- The reach is at or beyond the position plus the reverse limit, the limit taken in lu (R13). -/
def Lei.reverseLimitMet (l : Lei) : Bool :=
  atOrBeyond l.reach (plusLu l.position (l.cfg.revLimit * 2 ^ l.cfg.s))

/-- N_MOTION for a change of the motion state, if there is one (R9, R10). -/
def motionNote (before after : Lei) : Option NoticeBody :=
  if before.motion = after.motion then none
  else some (.motion after.motion before.motion after.position after.reach)

/-! ### The index edge (R14, R15) -/

/-- An index edge counts only with the check on and the most recent count forward (R14). -/
def Lei.indexEdgeTaken (l : Lei) : Bool := l.cfg.perIndex != 0 && l.lastDir == some .forward

/-- The counter differs from counts per index by more than the slack (R15). -/
def Lei.indexMismatch (l : Lei) : Bool :=
  l.indexRef && (decide (l.cfg.perIndex + l.cfg.slack < l.indexCount) || decide (l.indexCount + l.cfg.slack < l.cfg.perIndex))

/-- After an index edge the flag is set and the counter 0 (R14, R15). -/
def Lei.markIndex (l : Lei) : Lei := { l with indexRef := true, indexCount := 0 }

/-! ### Settings (R16, R17, R18) -/

/-- A taken LINE_SET (R16), with R17 when S changes. -/
def Lei.configure (c : LineCfg) (l : Lei) : Lei :=
  let l' := { l.endRun with cfg := c, turning := l.countReg, indexRef := false }
  if c.s = l.cfg.s then l' else { l' with countReg := 0, sub := 0, reach := 0#32, turning := 0 }

/-- A taken POS_SET (R18). -/
def Lei.preset (p : Pos) (l : Lei) : Lei :=
  let count := p.toNat / 2 ^ l.cfg.s
  { l with
    countReg := count
    sub := p.toNat % 2 ^ l.cfg.s
    reach := p
    subTimer := none
    turning := (l.turning + count + l.countModulus - l.countReg) % l.countModulus }

end Sys2Proof.Machine
end

