-- ==== Sys2Proof/Machine/Advance.lean ====
section
/-! DEFINITION. What the blocks do at one count or sub-step, in an order that the state gives (log 6). -/

namespace Sys2Proof.Machine

/-- What a block does at a count or a sub-step. -/
inductive Task where
  /-- N_MOTION at LEI (R10) -/
  | motion
  /-- the reverse limit test at LEI (R13) -/
  | reverseLimit
  /-- the release of the last accepted position in SEARCH (R27) -/
  | markRelease
  /-- the qualification test (R26) -/
  | markQualify
  /-- the close test of the detector's window (R29) -/
  | markClose
  /-- the verdict close tests (R45) -/
  | verdicts
  /-- the opening and close tests of a window (R93, R95) -/
  | window (b : Fin 2) (w : Fin 4)
  /-- the end test of a DISTANCE pulse (R77) -/
  | pulseEnd (b : Fin 2) (n : Fin 16)
  /-- the due test of a station (R68) -/
  | station (b : Fin 2) (n : Fin 16)
  deriving DecidableEq, Repr

/-- Tasks that only RUN and STOPPING have (Table 51). -/
def whileRunning (f : State → State) (s : State) : State := if s.running then f s else s

/-- One task. The notice of a change of motion is fixed by the count itself (R137). -/
def Task.run (note : Option NoticeBody) (t : Task) (s : State) : State :=
  match t with
  | .motion => match note with
    | none => s
    | some n => s.offer n
  | .reverseLimit => whileRunning (fun s => if s.lei.reverseLimitMet then raiseCause .reverseLimit s else s) s
  | .markRelease => whileRunning releaseLastAccepted s
  | .markQualify => whileRunning qualify s
  | .markClose => whileRunning closeTest s
  | .verdicts => whileRunning closeVerdicts s
  | .window b w => whileRunning (windowAdvance b w) s
  | .pulseEnd b n => whileRunning (distanceEnd b n) s
  | .station b n => whileRunning (stationTest b n) s

/-- The tests that every block makes at an advance of the reach (R11). -/
def reachTasks : List Task :=
  [.markRelease, .markQualify, .markClose, .verdicts] ++ allWindows.map (fun p => .window p.1 p.2) ++
  allStations.map (fun p => .pulseEnd p.1 p.2) ++ allStations.map (fun p => .station p.1 p.2)

/-- The due tests of the stations whose lead distance has changed (R68). -/
def leadTasks (before after : State) : List Task :=
  (allStations.filter fun p => before.lead p.1 p.2 != after.lead p.1 p.2).map fun p => .station p.1 p.2

/-- The tasks of one event at LEI: N_MOTION, the reverse limit at a reverse count, and the tests that the new reach or the
new lead distances call for. -/
def eventTasks (reverse : Bool) (before after : State) : List Task :=
  .motion :: (if reverse then [.reverseLimit] else []) ++
    (if before.lei.reach = after.lei.reach then leadTasks before after else reachTasks)

/-- LEI takes a new state, and the blocks act on it one after another in the order that the state gives (R11, R144). -/
def leiEvent (reverse : Bool) (l : Lei) (s : State) : State :=
  let after := s.withLei l
  let note := motionNote s.lei l
  (arrange s.sched.tasks (eventTasks reverse s after)).foldl (fun t task => task.run note t) after

end Sys2Proof.Machine
end

