-- ==== Sys2Proof/Machine/Events.lean ====
section
/-! DEFINITION. The events of the encoder, the sense inputs, FLT_IN and the part's own deadlines. An event whose condition
does not hold changes nothing (log 5). Each ends with the transmitter's choice (R161). -/

namespace Sys2Proof.Machine

abbrev Answered := Host.Outcome State Fault Refusal

/-- While RESETN is low every block is held in its reset state: no event is taken and no command acts (R135). -/
def unlessHeld (f : State → State) (s : State) : Answered := .next (if s.held then s else f s)

/-- A filtered level that has just changed. -/
def Filt.toggle (f : Filt) : Filt := .ofSample (!f.level)

/-! ### Encoder events -/

/-- One filtered phase takes its other level, which its pin shows (R2, log 5). -/
def togglePhase (phase : Phase) (s : State) : State :=
  match phase with
  | .a => (s.withLei { s.lei with encA := s.lei.encA.toggle }).withPins { s.pins with encA := !s.lei.encA.level }
  | .b => (s.withLei { s.lei with encB := s.lei.encB.toggle }).withPins { s.pins with encB := !s.lei.encB.level }

/-- A count in a direction, taken by every block (R2, R11). -/
def takeCount (d : Dir) (s : State) : State :=
  leiEvent (d == .reverse) (s.lei.count s.run.mode d s.partTime) s

/-- A change of one filtered phase: a count, or an update of the quadrature state only (R2). -/
def takePhase (phase : Phase) (s : State) : State :=
  let s := togglePhase phase s
  match s.lei.cfg.decode phase s.lei.encA.level s.lei.encB.level with
  | none => s
  | some d => takeCount d s

/-- COUNT: a change of one filtered phase; one that does not count only updates the quadrature state (R2). -/
def execCount (phase : Phase) (s : State) : Answered :=
  unlessHeld (fun s => serve (takePhase phase s)) s

/-- Both phases change at one sample: ENCODER in RUN and STOPPING, N_ENCERR otherwise (R3). -/
def takeIllegal (s : State) : State :=
  let a := s.lei.encA.level
  let b := s.lei.encB.level
  let s := togglePhase .b (togglePhase .a s)
  let s := s.withLei s.lei.endRun
  if s.running then raiseCause .encoder s else s.offer (.encErr s.lei.position a b (!a) (!b))

/-- ILLEGAL_TRANSITION (R3). -/
def execIllegalTransition (s : State) : Answered := unlessHeld (fun s => serve (takeIllegal s)) s

/-- A rising edge of filtered ENC_Z stands at the filter and at the pin. -/
def raiseZ (s : State) : State :=
  (s.withLei { s.lei with encZ := .ofSample true }).withPins { s.pins with encZ := true }

/-- The comparison at an index edge, with N_INDEX and INDEX_SLIP (R14, R15). -/
def takeIndex (s : State) : State :=
  if s.lei.indexEdgeTaken then
    let mismatch := s.lei.indexMismatch
    let fault := mismatch && s.lei.cfg.indexFault && s.running
    let body := NoticeBody.index s.lei.cfg.perIndex s.lei.indexCount s.lei.position fault
    let s := s.withLei s.lei.markIndex
    let s := if mismatch then s.offer body else s
    if fault then raiseCause .indexSlip s else s
  else s

/-- INDEX_EDGE (R14, R15). -/
def execIndexEdge (s : State) : Answered := unlessHeld (fun s => serve (takeIndex (raiseZ s))) s

/-- SUB_STEP: the sub-step period has expired and its conditions hold (R7). -/
def execSubStep (s : State) : Answered :=
  unlessHeld (fun s => if s.lei.subStepDue s.run.mode then serve (leiEvent false (s.lei.subStep s.run.mode) s) else s) s

/-- STANDSTILL_WATCH_EXPIRY (R9). -/
def execStandstillWatchExpiry (s : State) : Answered :=
  unlessHeld (fun s => if s.lei.standstillDue s.partTime then serve (leiEvent false s.lei.standStill s) else s) s

/-! ### Sense inputs -/

/-- The filtered level of a sense input takes its other value, which its pin shows (R20, log 5). -/
def toggleSense (i : Fin 4) (s : State) : State :=
  (s.withSns (s.sns.set i { s.sns[i] with filt := (s.sns[i]).filt.toggle })).withPins
    { s.pins with sn := s.pins.sn.set i (!(s.sns[i]).filt.level) }

/-- A user of the sense inputs: the mark detector, or a check window (R20). -/
inductive EdgeUser where
  | detector
  | window (b : Fin 2) (w : Fin 4)
  deriving DecidableEq, Repr

def allEdgeUsers : List EdgeUser := .detector :: allWindows.map fun p => .window p.1 p.2

/-- One user takes an edge (R24, R94). -/
def EdgeUser.take (input : Fin 4) (active : Bool) (u : EdgeUser) (s : State) : State :=
  match u with
  | .detector => detectorEdge input active s
  | .window b w => windowEdge b w input active s

/-- The active level of an input changes, seen by the detector and by the open windows on that input (R20). -/
def takeEdge (input : Fin 4) (s : State) : State :=
  let s := toggleSense input s
  let active := s.senseActive input
  (arrange s.sched.edges allEdgeUsers).foldl (fun s u => u.take input active s) s

/-- SENSE_EDGE (R20). -/
def execSenseEdge (input : Fin 4) (s : State) : Answered := unlessHeld (fun s => serve (takeEdge input s)) s

/-! ### FLT_IN (R122) -/

/-- The filtered level of FLT_IN takes a value, which its pin shows (log 5). -/
def setFlt (level : Bool) (s : State) : State :=
  (s.withRun { s.run with flt := .ofSample level }).withPins { s.pins with fltIn := level }

/-- FLT_IN_ACTIVATION: the filtered level goes low and raises EXTERNAL (R122, R130, R131). -/
def execFltInActivation (s : State) : Answered :=
  unlessHeld (fun s => if s.fltActive then s else serve (raiseCause .external (setFlt false s))) s

/-- FLT_IN_RELEASE: the filtered level goes high, which lifts the hold (R122). -/
def execFltInRelease (s : State) : Answered :=
  unlessHeld (fun s => if s.fltActive then serve (setFlt true s) else s) s

/-! ### Deadlines -/

/-- MAX_ON_DEADLINE_EXPIRY: part time has reached the armed deadline of a pulse that is ON (R78). -/
def execMaxOnDeadlineExpiry (b : Fin 2) (n : Fin 16) (s : State) : Answered :=
  unlessHeld (fun s => if s.maxOnDue b n then serve (endPulseOf b n .deadline s) else s) s

/-- TIME_PULSE_END: part time has reached the end target of a TIME pulse that is ON (R79). -/
def execTimePulseEnd (b : Fin 2) (n : Fin 16) (s : State) : Answered :=
  unlessHeld (fun s => if s.timeEndDue b n then serve (endPulseOf b n .target s) else s) s

/-- A deadline that is armed and that part time has reached. -/
def deadlineMet (deadline : Option Time) (now : Time) : Bool := (deadline.map fun d => atOrBeyond now d).getD false

/-- The drain deadline has come in STOPPING (R128). -/
def State.drainDue (s : State) : Bool := s.run.mode == .stopping && deadlineMet s.run.drain s.partTime

/-- DRAIN_DEADLINE_EXPIRY: a flush with reason DRAIN_TIMEOUT (R128). -/
def execDrainDeadlineExpiry (s : State) : Answered :=
  unlessHeld (fun s => if s.drainDue then serve (flushTo .drainTimeout s) else s) s

end Sys2Proof.Machine
end

