-- ==== Sys2Proof/Machine/Operands.lean ====
section
/-! DEFINITION. The fields of command payloads: their bytes, the codes of Table 70 read back, and their ranges. -/

namespace Sys2Proof.Machine

/-! ### Bytes and numbers (R168) -/

def byteAt (p : List Byte) (i : Nat) : Nat := (p.getD i 0#8).toNat
def num2 (p : List Byte) (i : Nat) : Nat := byteAt p i * 256 + byteAt p (i + 1)
def num3 (p : List Byte) (i : Nat) : Nat := byteAt p i * 65536 + num2 p (i + 1)
def num4 (p : List Byte) (i : Nat) : Nat := byteAt p i * 16777216 + num3 p (i + 1)

/-- A yes/no byte is 00H or 01H (R168). -/
def optionOk (n : Nat) : Bool := decide (n < 2)

/-! ### Codes read back (Table 70) -/

def CountMode.ofCode : Nat → Option CountMode
  | 0 => some .x1 | 1 => some .x2 | 2 => some .x4 | _ => none

def Polarity.ofCode : Nat → Option Polarity
  | 0 => some .activeHigh | 1 => some .activeLow | _ => none

def EdgeKind.ofCode : Nat → Option EdgeKind
  | 0 => some .rising | 1 => some .falling | _ => none

def Action.ofCode : Nat → Option Action
  | 0 => some .pulse | 1 => some .set | 2 => some .clear | 3 => some .invert | _ => none

def LengthKind.ofCode : Nat → Option LengthKind
  | 0 => some .distance | 1 => some .time | _ => none

def Condition.ofCode : Nat → Option Condition
  | 0 => some .always | 1 => some .accepted | 2 => some .rejected | 3 => some .windowPass | 4 => some .windowFail
  | _ => none

def Expected.ofCode : Nat → Option Expected
  | 0 => some .active | 1 => some .inactive | _ => none

def Rule.ofCode : Nat → Option Rule
  | 0 => some .any | 1 => some .all | _ => none

def Forced.ofCode : Nat → Option Forced
  | 0 => some .none | 1 => some .inactive | 2 => some .active | _ => Option.none

/-- ACCEPT or REJECT; the code of NONE is out of range in a command (10.3, Table 47). -/
def Verdict.ofCode : Nat → Option Verdict
  | 1 => some .accept | 2 => some .reject | _ => Option.none

/-- A number as a bank, station, window, line or input; it is used only within range. -/
def asFin (n : Nat) (v : Nat) [NeZero n] : Fin n := Fin.ofNat n v

/-! ### Ranges (R158 step 4) -/

/-- The lowest index whose field is out of range, from the fields in order with their indices from 1. -/
def firstBad (l : List Bool) : Option Nat := (l.findIdx? fun ok => !ok).map (· + 1)

/-! ### Settings read from payloads -/

/-- LINE_SET (Table 71, Table 14). -/
def LineCfg.ofPayload (p : List Byte) : LineCfg :=
  { countMode := (CountMode.ofCode (byteAt p 0)).getD .x4
    invert := byteAt p 1 == 1
    s := byteAt p 2
    filter := byteAt p 3
    standstillMs := num2 p 4
    revThreshold := byteAt p 6
    revLimit := num2 p 7
    perIndex := num2 p 9
    slack := byteAt p 11
    indexFault := byteAt p 12 == 1 }

def lineRanges (p : List Byte) : List Bool :=
  [(CountMode.ofCode (byteAt p 0)).isSome, optionOk (byteAt p 1), decide (byteAt p 2 ≤ 6), decide (byteAt p 3 ≤ 15),
   decide (1 ≤ num2 p 4 ∧ num2 p 4 ≤ 500), decide (1 ≤ byteAt p 6), decide (1 ≤ num2 p 7), true, true,
   optionOk (byteAt p 12)]

/-- SENSE_SET (Table 17): the settings of the input that byte 0 names. -/
def senseRanges (p : List Byte) : List Bool :=
  [decide (byteAt p 0 < 4), (Polarity.ofCode (byteAt p 1)).isSome, true]

/-- MARK_SET (Table 71, Table 18). -/
def MarkCfg.ofPayload (p : List Byte) : MarkCfg :=
  { enable := byteAt p 0 == 1
    input := asFin 4 (byteAt p 1)
    edge := (EdgeKind.ofCode (byteAt p 2)).getD .rising
    minLength := num2 p 3
    pitch := num3 p 5
    tolerance := num3 p 8
    missLimit := byteAt p 11
    blanking := num3 p 12 }

/-- The range of the tolerance, by the pitch of the same command (R22). -/
def toleranceOk (pitch tolerance : Nat) : Bool :=
  if pitch = 0 then tolerance == 0 else decide (2 * tolerance < pitch)

def markRanges (p : List Byte) : List Bool :=
  [optionOk (byteAt p 0), decide (byteAt p 1 < 4), (EdgeKind.ofCode (byteAt p 2)).isSome, true, true,
   toleranceOk (num3 p 5) (num3 p 8), decide (byteAt p 11 ≤ 15), true]

/-- STN_WRITE (Table 79, Table 27). -/
def StationDef.ofPayload (p : List Byte) : StationDef :=
  { enabled := byteAt p 2 == 1
    line := asFin 16 (byteAt p 3)
    action := (Action.ofCode (byteAt p 4)).getD .pulse
    offset := num3 p 5
    lengthKind := (LengthKind.ofCode (byteAt p 8)).getD .distance
    length := num3 p 9
    maxOn := num2 p 12
    leadTime := num2 p 14
    leadLimit := num3 p 16
    condition := (Condition.ofCode (byteAt p 19)).getD .always
    window := asFin 4 (byteAt p 20) }

/-- The range of a station's length, by its length kind (R85, R173). -/
def lengthOk (kind : Option LengthKind) (length : Nat) : Bool :=
  match kind with
  | some .time => decide (1 ≤ length ∧ length ≤ 65535)
  | _ => decide (1 ≤ length)

/-- The range of the max on time: 0 with a TIME length (R85). -/
def maxOnOk (kind : Option LengthKind) (maxOn : Nat) : Bool :=
  match kind with
  | some .time => maxOn == 0
  | _ => true

/-- The range of the window field, by the condition (R85). -/
def windowOk (condition : Option Condition) (window : Nat) : Bool :=
  match condition with
  | some .windowPass => decide (window < 4)
  | some .windowFail => decide (window < 4)
  | _ => window == 0

def stationRanges (p : List Byte) : List Bool :=
  [decide (byteAt p 0 < 2), decide (byteAt p 1 < 16), optionOk (byteAt p 2), decide (byteAt p 3 < 16),
   (Action.ofCode (byteAt p 4)).isSome, true, (LengthKind.ofCode (byteAt p 8)).isSome,
   lengthOk (LengthKind.ofCode (byteAt p 8)) (num3 p 9), maxOnOk (LengthKind.ofCode (byteAt p 8)) (num2 p 12), true,
   decide (num3 p 16 ≤ 2 ^ 20), (Condition.ofCode (byteAt p 19)).isSome,
   windowOk (Condition.ofCode (byteAt p 19)) (byteAt p 20)]

/-- CHK_WRITE (Table 81, Table 36). -/
def WindowDef.ofPayload (p : List Byte) : WindowDef :=
  { enabled := byteAt p 2 == 1
    input := asFin 4 (byteAt p 3)
    expected := (Expected.ofCode (byteAt p 4)).getD .active
    start := num3 p 5
    length := num3 p 8
    rule := (Rule.ofCode (byteAt p 11)).getD .any }

def windowRanges (p : List Byte) : List Bool :=
  [decide (byteAt p 0 < 2), decide (byteAt p 1 < 4), optionOk (byteAt p 2), decide (byteAt p 3 < 4),
   (Expected.ofCode (byteAt p 4)).isSome, true, decide (1 ≤ num3 p 8), (Rule.ofCode (byteAt p 11)).isSome]

/-- STN_READ: bank and station (R86). -/
def stationReadRanges (p : List Byte) : List Bool := [decide (byteAt p 0 < 2), decide (byteAt p 1 < 16)]

/-- CHK_READ: bank and window (R101). -/
def windowReadRanges (p : List Byte) : List Bool := [decide (byteAt p 0 < 2), decide (byteAt p 1 < 4)]

/-- BANK_PARAM (Table 47). -/
def bankParamRanges (p : List Byte) : List Bool :=
  [decide (byteAt p 0 < 2), true, (Verdict.ofCode (byteAt p 4)).isSome]

/-- BANK_COMMIT and BANK_CANCEL: a bank (R112, R115). -/
def bankRanges (p : List Byte) : List Bool := [decide (byteAt p 0 < 2)]

/-- OUT_FORCE: line and forced level (R88). -/
def forceRanges (p : List Byte) : List Bool := [decide (byteAt p 0 < 16), (Forced.ofCode (byteAt p 1)).isSome]

/-- RUN_STOP: stop kind, and a drain limit that is 0 with FLUSH (Table 54). -/
def stopRanges (p : List Byte) : List Bool := [decide (byteAt p 0 < 2), byteAt p 0 == 0 || num2 p 1 == 0]

/-- ITEM_TAG: an item number other than 0, and any tag (R53). -/
def tagRanges (p : List Byte) : List Bool := [num2 p 0 != 0, true]

/-- ITEM_VERDICT: an item number other than 0, and ACCEPT or REJECT (R47). -/
def verdictRanges (p : List Byte) : List Bool := [num2 p 0 != 0, (Verdict.ofCode (byteAt p 2)).isSome]

/-- QUEUE_READ: any start number, and a count of 1 to 4 (R57). -/
def queueReadRanges (p : List Byte) : List Bool := [true, decide (1 ≤ byteAt p 2 ∧ byteAt p 2 ≤ 4)]

/-- The allowed classes of a notice kind (Table 60). -/
def classAllowed (code cls : Nat) : Bool :=
  match code with
  | 0x49 => decide (1 ≤ cls ∧ cls ≤ 3)
  | 0x4A => decide (1 ≤ cls ∧ cls ≤ 3)
  | 0x4B => cls == 3
  | _ => decide (cls ≤ 3)

/-- NOTICE_CLASS: a kind code, and a class that the kind allows (R141). -/
def classRanges (p : List Byte) : List Bool :=
  [decide (0x41 ≤ byteAt p 0 ∧ byteAt p 0 ≤ 0x4C), classAllowed (byteAt p 0) (byteAt p 1)]

end Sys2Proof.Machine
end

