-- ==== Sys2Proof/Machine/CommandsSetup.lean ====
section
/-! DEFINITION. What an execution answers, and the commands that set up and query the link, the line, the inputs, the
actuator lines and the notice classes. Each is the command's own checks and its action (R158 step 5). -/

namespace Sys2Proof.Machine

/-- What an execution answers: the response, and what its transmission brings about. -/
structure Answer where
  reply : Reply
  role : Role
  deriving DecidableEq, Repr

/-- A response with no flags (R159). -/
def Reply.plain (status : Status) (detail : Nat) (content : List Byte) : Reply :=
  { status := status, repeated := false, replaced := false, alreadyStopping := false, detail := detail, content := content }

/-- A response that only leaves the link. -/
def Answer.plain (status : Status) (detail : Nat) (content : List Byte) : Answer :=
  { reply := .plain status detail content, role := .plain }

/-- OK with content. -/
def Answer.ok (content : List Byte) : Answer := .plain .ok 0 content

/-- A refusal by the command's own checks, with no content (R170). -/
def Answer.no (status : Status) : Answer := .plain status 0 []

/-! ### The link and the part as a whole -/

/-- The fixed content of IDENT (R166, Table 74). -/
def identContent : List Byte := be2 0x4341 ++ be2 316 ++ be1 2 ++ be1 48 ++ be1 16 ++ be1 4 ++ be1 16 ++ be1 4 ++ be1 32

/-- IDENT (R166). -/
def runIdent (s : State) : State × Answer := (s, .ok identContent)

/-- The time left until a deadline in whole milliseconds rounded up, 0 when none is armed (R126, R134, R165). -/
def msLeft (deadline : Option Time) (now : Time) : Nat := (deadline.map fun d => msRoundedUp (timeLeft d now)).getD 0

/-- The content of STATUS (R134, Table 75). -/
def statusContent (s : State) : List Byte :=
  be1 s.run.mode.code ++ be1 s.run.faults.code ++ be1 (firstFaultCode s.run.first) ++ be1 s.statusFlags ++
  be2 (msLeft s.run.drain s.partTime) ++ be1 s.lei.motion.code ++ be4 s.lei.position.toNat ++ be4 s.lei.reach.toNat ++
  be3 s.lei.interval ++ be1 s.mkd.state.code ++ be1 s.mkd.missRun ++ be1 s.iq.items.length ++ be2 s.headNo.toNat ++
  be2 s.tailNo.toNat ++ be1 (s.bank 0).state.code ++ be1 (s.bank 0).count ++ be1 (s.bank 1).state.code ++
  be1 (s.bank 1).count ++ be4 s.partTime.toNat ++ be1 s.ntq.queue.length ++ be1 s.slk.rate.val ++ be1 s.slk.link.code

/-- STATUS (R134). -/
def runStatus (s : State) : State × Answer := (s, .ok (statusContent s))

/-- The end of a trial at the rate in force: STEADY, the deadline disarmed (R163, R164, log 17). -/
def Slk.endTrial (l : Slk) : Slk := { l with link := .steady, trialDeadline := none, oldRate := none }

/-- A trial in progress ends when a LINK_SET passes its range checks (R164). -/
def endTrialFirst (s : State) : State := if s.slk.link = .trial then s.withSlk s.slk.endTrial else s

/-- LINK_SET (R162, R164). -/
def runLinkSet (p : List Byte) (s : State) : State × Answer :=
  let s := endTrialFirst s
  let new := asFin 6 (byteAt p 0)
  if new = s.slk.rate then (s, .plain .noChange 0 (be1 s.slk.rate.val))
  else (s, { reply := .plain .ok 0 (be1 s.slk.rate.val ++ be1 new.val), role := .rateChange new })

/-- The content of LINK_STATUS (R165, Table 74). -/
def linkStatusContent (s : State) : List Byte :=
  be2 s.slk.crcErrors ++ be2 s.slk.lengthErrors ++ be2 s.slk.gapErrors ++ be2 s.slk.busyDrops ++ be1 s.slk.rate.val ++
  be1 s.slk.link.code ++ be2 (msLeft s.slk.trialDeadline s.partTime)

/-- The four error counters at 0 (R165). -/
def Slk.clearCounters (l : Slk) : Slk := { l with crcErrors := 0, lengthErrors := 0, gapErrors := 0, busyDrops := 0 }

/-- LINK_STATUS (R165). -/
def runLinkStatus (p : List Byte) (s : State) : State × Answer :=
  (if byteAt p 0 = 1 then s.withSlk s.slk.clearCounters else s, .ok (linkStatusContent s))

/-- PART_RESET: nothing until its response has left (R136). -/
def runPartReset (s : State) : State × Answer := (s, { reply := .plain .ok 0 [], role := .partReset })

/-! ### The line, the inputs and the detector -/

/-- LINE_SET (R16, R17). -/
def runLineSet (p : List Byte) (s : State) : State × Answer :=
  (s.withLei (s.lei.configure (.ofPayload p)), .ok [])

/-- POS_SET (R18). -/
def runPosSet (p : List Byte) (s : State) : State × Answer :=
  (s.withLei (s.lei.preset (BitVec.ofNat 32 (num4 p 0))), .ok [])

/-- The settings of one sense input (R21). -/
def SenseInput.configure (p : List Byte) (i : SenseInput) : SenseInput :=
  { i with polarity := (Polarity.ofCode (byteAt p 1)).getD .activeHigh, filterUs := byteAt p 2 }

/-- SENSE_SET (R21). -/
def runSenseSet (p : List Byte) (s : State) : State × Answer :=
  let i := asFin 4 (byteAt p 0)
  (s.withSns (s.sns.set i ((s.sns[i]).configure p)), .ok [])

/-- MARK_SET (R22). -/
def runMarkSet (p : List Byte) (s : State) : State × Answer :=
  (s.withMkd { s.mkd with cfg := .ofPayload p }, .ok [])

/-! ### The actuator lines -/

/-- Bit n of the polarity field is line n (10.2). -/
def linePolarity (field : Nat) (n : Fin 16) : Polarity := if field.testBit n.val then .activeLow else .activeHigh

/-- LINES_SET (R87). -/
def runLinesSet (p : List Byte) (s : State) : State × Answer :=
  (allStationNos.foldl (fun s n => s.modLine n fun l => { l with polarity := linePolarity (num2 p 0) n }) s, .ok [])

/-- OUT_FORCE (R88). -/
def runOutForce (p : List Byte) (s : State) : State × Answer :=
  (s.modLine (asFin 16 (byteAt p 0)) fun l => { l with forced := (Forced.ofCode (byteAt p 1)).getD .none }, .ok [])

/-! ### The notice classes -/

/-- NOTICE_CLASS: the class before, and the whole table after (R141). -/
def runNoticeClass (p : List Byte) (s : State) : State × Answer :=
  let slot := asFin 12 (byteAt p 0 - 0x41)
  let classes := s.ntq.classes.set slot (byteAt p 1)
  (s.withNtq { s.ntq with classes := classes }, .ok (be1 s.ntq.classes[slot] ++ classes.toList.flatMap be1))

end Sys2Proof.Machine
end

