-- ==== Sys2Proof/Machine/CommandsBank.lean ====
section
/-! DEFINITION. The commands that edit, read, commit and withdraw recipe banks. Each is the command's own checks and its
action (R158 step 5). -/

namespace Sys2Proof.Machine

/-- An edit of the bank that byte 0 names, under the editing permission (R108). -/
def editBank (p : List Byte) (edit : Bank → Bank) (s : State) : State × Answer :=
  let b := asFin 2 (byteAt p 0)
  match editRefusal s.run.mode (s.bank b).state with
  | some refusal => (s, .no refusal)
  | none => (s.modBank b edit, .ok [])

/-- STN_WRITE (R85). -/
def runStnWrite (p : List Byte) (s : State) : State × Answer :=
  editBank p (Bank.modStation (asFin 16 (byteAt p 1)) fun st => { st with cfg := .ofPayload p }) s

/-- STN_READ: definition and run state (R86, Table 74). -/
def runStnRead (p : List Byte) (s : State) : State × Answer :=
  let b := asFin 2 (byteAt p 0)
  let n := asFin 16 (byteAt p 1)
  (s, .ok ((s.station b n).cfg.record b n ++ (s.station b n).run.record (s.lead b n) s.partTime))

/-- CHK_WRITE (R100). -/
def runChkWrite (p : List Byte) (s : State) : State × Answer :=
  editBank p (Bank.modWindow (asFin 4 (byteAt p 1)) fun wd => { wd with cfg := .ofPayload p }) s

/-- CHK_READ: definition and run state (R101, Table 74). -/
def runChkRead (p : List Byte) (s : State) : State × Answer :=
  let b := asFin 2 (byteAt p 0)
  let w := asFin 4 (byteAt p 1)
  (s, .ok ((s.window b w).cfg.record b w ++ (s.window b w).run.record))

/-- BANK_PARAM (R109). -/
def runBankParam (p : List Byte) (s : State) : State × Answer :=
  editBank p (fun k => { k with
    closeDistance := num3 p 1, defaultVerdict := (Verdict.ofCode (byteAt p 4)).getD .accept }) s

/-- RECIPE_INVALID: the reason in the detail byte, the station or window number as content (R110, R170). -/
def Answer.recipeInvalid (fault : RecipeReason × Nat) : Answer := .plain .recipeInvalid fault.1.code (be1 fault.2)

/-- An immediate commit in CONFIGURE (R112). -/
def commitDirect (b : Fin 2) (s : State) : State :=
  ((s.modBank (otherBank b) fun k => { k with state := .idle }).modBank b (Bank.activate .direct 0#16)).offerBank .direct b
    0#16

/-- The commit of a bank that has passed the check: at once in CONFIGURE, ARMED in RUN and STOPPING (R112). -/
def commitBank (b : Fin 2) (s : State) : State :=
  if s.run.mode = .configure then commitDirect b s else s.modBank b fun k => { k with state := .armed }

/-- BANK_COMMIT (R112). -/
def runBankCommit (p : List Byte) (s : State) : State × Answer :=
  let b := asFin 2 (byteAt p 0)
  match (s.bank b).state with
  | .active => (s, .no .noChange)
  | .armed => (s, .no .bankArmed)
  | .draining => (s, .no .bankBusy)
  | .idle =>
    match (s.bank b).recipeFault s.mkd.cfg.pitch with
    | some fault => (s, .recipeInvalid fault)
    | none => (commitBank b s, .ok (be1 ((commitBank b s).bank b).state.code))

/-- BANK_CANCEL (R115). -/
def runBankCancel (p : List Byte) (s : State) : State × Answer :=
  let b := asFin 2 (byteAt p 0)
  match (s.bank b).state with
  | .armed => (s.modBank b fun k => { k with state := .idle }, .ok [])
  | .active =>
    match (s.bank b).activation.how with
    | .reset => (s, .no .noChange)
    | _ => (s, .plain .late 0 (be2 (s.bank b).activation.first.toNat))
  | _ => (s, .no .noChange)

end Sys2Proof.Machine
end

