-- ==== Sys2Proof/Machine/CommandsRun.lean ====
section
/-! DEFINITION. The commands of run control and of the item queue. Each is the command's own checks and its action (R158
step 5). -/

namespace Sys2Proof.Machine

/-! ### Run control -/

/-- The content of a taken RUN_START (R123, Table 74). -/
def startContent (s : State) : List Byte :=
  be1 s.run.mode.code ++ be1 s.activeBank.val ++ be4 s.lei.reach.toNat ++ be2 s.iq.next.toNat

/-- RUN_START (R123, R124). -/
def runRunStart (s : State) : State × Answer :=
  if s.fltActive then (s, .no .externalHold)
  else
    match (s.bank s.activeBank).recipeFault s.mkd.cfg.pitch with
    | some fault => (s, .recipeInvalid fault)
    | none => (startRun s, .ok (startContent (startRun s)))

/-- The content of a taken RUN_STOP DRAIN (R125, R126, Table 74). -/
def drainContent (s : State) : List Byte :=
  be1 s.run.mode.code ++ be1 s.iq.items.length ++ be2 s.headNo.toNat ++ be2 s.tailNo.toNat ++
  be1 s.run.drain.isSome.toNat ++ be2 (msLeft s.run.drain s.partTime)

/-- The content that reports discarded items (Table 74). -/
def discardContent (gone : Removed) : List Byte := be1 gone.count ++ be2 gone.first.toNat ++ be2 gone.last.toNat

/-- RUN_STOP DRAIN: a stop begins in RUN, and is found begun in STOPPING (R125, R126). -/
def runDrain (p : List Byte) (s : State) : State × Answer :=
  if s.run.mode = .stopping then
    (s, { reply := { Reply.plain .ok 0 (drainContent s) with alreadyStopping := true }, role := .plain })
  else
    let s := startDrain (num2 p 1) s
    (s, .ok (drainContent s))

/-- RUN_STOP FLUSH (R128). -/
def runFlush (s : State) : State × Answer :=
  let after := flushTo .flushed s
  (after, .ok (be1 after.run.mode.code ++ discardContent (removeItems s).2))

/-- RUN_STOP, by its stop kind (R125). -/
def runRunStop (p : List Byte) (s : State) : State × Answer :=
  if byteAt p 0 = 0 then runDrain p s else runFlush s

/-- FAULT_CLEAR (R132). -/
def runFaultClear (s : State) : State × Answer :=
  if s.fltActive then (s, .no .externalHold)
  else
    (flushTo .cleared (s.withRun { s.run with faults := .empty, first := none }),
      .ok (be1 s.run.faults.code ++ be1 (firstFaultCode s.run.first) ++ discardContent (removeItems s).2))

/-! ### The item queue -/

/-- ITEM_TAG (R53). -/
def runItemTag (p : List Byte) (s : State) : State × Answer :=
  let no := BitVec.ofNat 16 (num2 p 0)
  match s.findItem no with
  | none => (s, .no .noItem)
  | some i =>
    (s.modItem no fun j => { j with tag := some (BitVec.ofNat 32 (num4 p 2)) },
      { reply := { Reply.plain .ok 0 [] with replaced := i.tag.isSome }, role := .plain })

/-- Verdict and source as the response carries them (R47, Table 74). -/
def verdictContent (v : Verdict) (source : VerdictSource) : List Byte := be1 v.code ++ be1 source.code

/-- ITEM_VERDICT (R47). -/
def runItemVerdict (p : List Byte) (s : State) : State × Answer :=
  let no := BitVec.ofNat 16 (num2 p 0)
  let v := (Verdict.ofCode (byteAt p 2)).getD .accept
  match s.findItem no with
  | none => (s, .no .noItem)
  | some i =>
    if i.closed then (s, .plain .late 0 (verdictContent i.verdict i.source))
    else
      (s.modItem no fun j => { j with verdict := v, source := .host },
        { reply := { Reply.plain .ok 0 (verdictContent v .host) with replaced := i.source == .host }, role := .plain })

/-- ITEM_INJECT (R55). -/
def runItemInject (s : State) : State × Answer :=
  if s.mkd.state = .off then
    let mark := s.lei.reach
    let made := createItem .injected mark s
    if made.2 = 0#16 then (made.1, .plain .queueFull 0 (be2 0 ++ be4 mark.toNat ++ be1 0xFF))
    else (made.1, .ok (be2 made.2.toNat ++ be4 mark.toNat ++ be1 made.1.activeBank.val))
  else (s, .no .detectorOn)

/-- The start number of a QUEUE_READ names a queued item; 0 names none (R57). -/
def startFound (start : ItemNo) (items : List Item) : Bool := start != 0#16 && items.any fun i => i.no == start

/-- The items that a QUEUE_READ can return: from the named item if it is present, else from the head (R57). -/
def readFrom (start : ItemNo) (items : List Item) : List Item :=
  if startFound start items then items.dropWhile fun i => i.no != start else items

/-- The content of a QUEUE_READ: found and more-follow flags, the number of records, the records (R57, Table 74). -/
def queueContent (start : ItemNo) (count : Nat) (items : List Item) : List Byte :=
  let rest := readFrom start items
  be1 (flagByte [startFound start items, decide (count < rest.length)]) ++ be1 (rest.take count).length ++
    (rest.take count).flatMap Item.record

/-- QUEUE_READ (R57). -/
def runQueueRead (p : List Byte) (s : State) : State × Answer :=
  (s, .ok (queueContent (BitVec.ofNat 16 (num2 p 0)) (byteAt p 2) s.iq.items))

end Sys2Proof.Machine
end

