-- ==== Sys2Proof/Machine/Commands.lean ====
section
/-! DEFINITION. The commands of Table 66 and the steps through which each is executed (spec/09 R158, R160). -/

namespace Sys2Proof.Machine

/-- The commands of Table 66. -/
inductive Cmd where
  | ident | status | linkSet | linkStatus | partReset | lineSet | posSet | senseSet | markSet | stnWrite | stnRead
  | chkWrite | chkRead | bankParam | bankCommit | bankCancel | linesSet | outForce | runStart | runStop | faultClear
  | itemTag | itemVerdict | itemInject | queueRead | noticeClass
  deriving DecidableEq, Repr

/-- The command code (Table 66). -/
def Cmd.code : Cmd → Byte
  | .ident => 0x01#8 | .status => 0x02#8 | .linkSet => 0x03#8 | .linkStatus => 0x04#8 | .partReset => 0x05#8
  | .lineSet => 0x10#8 | .posSet => 0x11#8 | .senseSet => 0x12#8 | .markSet => 0x13#8 | .stnWrite => 0x18#8
  | .stnRead => 0x19#8 | .chkWrite => 0x1A#8 | .chkRead => 0x1B#8 | .bankParam => 0x1C#8 | .bankCommit => 0x1D#8
  | .bankCancel => 0x1E#8 | .linesSet => 0x1F#8 | .outForce => 0x20#8 | .runStart => 0x24#8 | .runStop => 0x25#8
  | .faultClear => 0x26#8 | .itemTag => 0x28#8 | .itemVerdict => 0x29#8 | .itemInject => 0x2A#8 | .queueRead => 0x2B#8
  | .noticeClass => 0x30#8

def allCmds : List Cmd :=
  [.ident, .status, .linkSet, .linkStatus, .partReset, .lineSet, .posSet, .senseSet, .markSet, .stnWrite, .stnRead,
   .chkWrite, .chkRead, .bankParam, .bankCommit, .bankCancel, .linesSet, .outForce, .runStart, .runStop, .faultClear,
   .itemTag, .itemVerdict, .itemInject, .queueRead, .noticeClass]

/-- The command that a KIND byte names, if any (R158 step 1). -/
def Cmd.ofKind (kind : Byte) : Option Cmd := allCmds.find? fun c => c.code == kind

/-- The payload length (Table 71). -/
def Cmd.length : Cmd → Nat
  | .ident => 0 | .status => 0 | .linkSet => 1 | .linkStatus => 1 | .partReset => 0 | .lineSet => 13 | .posSet => 4
  | .senseSet => 3 | .markSet => 15 | .stnWrite => 21 | .stnRead => 2 | .chkWrite => 12 | .chkRead => 2 | .bankParam => 5
  | .bankCommit => 1 | .bankCancel => 1 | .linesSet => 2 | .outForce => 2 | .runStart => 0 | .runStop => 3
  | .faultClear => 0 | .itemTag => 6 | .itemVerdict => 3 | .itemInject => 0 | .queueRead => 3 | .noticeClass => 2

/-- The modes in which a command is taken (Table 66). -/
def Cmd.takenIn (c : Cmd) (m : Mode) : Bool :=
  match c with
  | .ident => true
  | .status => true
  | .linkSet => true
  | .linkStatus => true
  | .partReset => true
  | .lineSet => m == .configure
  | .posSet => m == .configure
  | .senseSet => m == .configure
  | .markSet => m == .configure
  | .stnWrite => true
  | .stnRead => true
  | .chkWrite => true
  | .chkRead => true
  | .bankParam => true
  | .bankCommit => m != .fault
  | .bankCancel => true
  | .linesSet => m == .configure
  | .outForce => m == .configure
  | .runStart => m == .configure
  | .runStop => m.running
  | .faultClear => m == .fault
  | .itemTag => m.running
  | .itemVerdict => m.running
  | .itemInject => m == .run
  | .queueRead => true
  | .noticeClass => true

/-- Whether each field of a payload is in range, in the order of the field indices (R158 step 4). -/
def Cmd.ranges (c : Cmd) (p : List Byte) : List Bool :=
  match c with
  | .ident => []
  | .status => []
  | .linkSet => [decide (byteAt p 0 ≤ 5)]
  | .linkStatus => [optionOk (byteAt p 0)]
  | .partReset => []
  | .lineSet => lineRanges p
  | .posSet => []
  | .senseSet => senseRanges p
  | .markSet => markRanges p
  | .stnWrite => stationRanges p
  | .stnRead => stationReadRanges p
  | .chkWrite => windowRanges p
  | .chkRead => windowReadRanges p
  | .bankParam => bankParamRanges p
  | .bankCommit => bankRanges p
  | .bankCancel => bankRanges p
  | .linesSet => []
  | .outForce => forceRanges p
  | .runStart => []
  | .runStop => stopRanges p
  | .faultClear => []
  | .itemTag => tagRanges p
  | .itemVerdict => verdictRanges p
  | .itemInject => []
  | .queueRead => queueReadRanges p
  | .noticeClass => classRanges p

/-- The command's own checks and its action (R158 step 5). -/
def Cmd.run (c : Cmd) (p : List Byte) (s : State) : State × Answer :=
  match c with
  | .ident => runIdent s
  | .status => runStatus s
  | .linkSet => runLinkSet p s
  | .linkStatus => runLinkStatus p s
  | .partReset => runPartReset s
  | .lineSet => runLineSet p s
  | .posSet => runPosSet p s
  | .senseSet => runSenseSet p s
  | .markSet => runMarkSet p s
  | .stnWrite => runStnWrite p s
  | .stnRead => runStnRead p s
  | .chkWrite => runChkWrite p s
  | .chkRead => runChkRead p s
  | .bankParam => runBankParam p s
  | .bankCommit => runBankCommit p s
  | .bankCancel => runBankCancel p s
  | .linesSet => runLinesSet p s
  | .outForce => runOutForce p s
  | .runStart => runRunStart s
  | .runStop => runRunStop p s
  | .faultClear => runFaultClear s
  | .itemTag => runItemTag p s
  | .itemVerdict => runItemVerdict p s
  | .itemInject => runItemInject s
  | .queueRead => runQueueRead p s
  | .noticeClass => runNoticeClass p s

/-- A refusal at steps 1 to 4, with its detail and no content (R158, Table 73). -/
def refusal (r : Request) (mode : Mode) : Option (Status × Nat) :=
  match Cmd.ofKind r.kind with
  | none => some (.badKind, 0)
  | some c =>
    if r.payload.length ≠ c.length then some (.badLength, c.length)
    else if c.takenIn mode then (firstBad (c.ranges r.payload)).map fun i => (.badValue, i)
    else some (.wrongMode, mode.code)

/-- The steps of R158: the first that refuses answers, else the command acts. -/
def execute (r : Request) (s : State) : State × Answer :=
  match refusal r s.run.mode, Cmd.ofKind r.kind with
  | some (status, detail), _ => (s, .plain status detail [])
  | none, some c => c.run r.payload s
  | none, none => (s, .plain .badKind 0 [])

end Sys2Proof.Machine
end

