-- ==== Sys2Proof/Machine/Resets.lean ====
section
/-! DEFINITION. The three resets (spec/07 R135, R136). -/

namespace Sys2Proof.Machine

/-- Every block takes its reset state at a rate code; the filtered levels are those of the pins; N_MODE RESET is queued, and
the transmitter takes it (R135, R136, R148). -/
def resetTo (kind : ResetKind) (rate : Fin 6) (s : State) : State :=
  let previous := match kind with
    | .powerOn => .configure
    | .pin => .configure
    | .soft => s.run.mode
  serve ((State.atReset s.pending s.pins s.samples s.sched rate).offerMode previous .reset .nothing (some kind))

/-- RESETN stands high at the end of a power-on or pin reset (log 5, log 19). -/
def releaseReset (s : State) : State := s.withPins { s.pins with resetn := true }

/-- Every block held in its reset state at rate code 0 while RESETN is low; no notice is queued yet (R135, R167). -/
def holdReset (s : State) : State := State.atReset s.pending s.pins s.samples s.sched 0

/-- POWER_ON_RESET: every block in its reset state at rate code 0 (R135, R149). -/
def execPowerOnReset (s : State) : Answered := .next (resetTo .powerOn 0 (releaseReset s))

/-- PIN_RESET: RESETN low and released (R135, R149). -/
def execPinReset (s : State) : Answered := .next (resetTo .pin 0 (releaseReset s))

/-- The soft reset keeps the rate code in force (R136, R149). -/
def softReset (s : State) : State := resetTo .soft s.slk.rate s

end Sys2Proof.Machine
end

