-- ==== Sys2Proof/Machine/Link.lean ====
section
/-! DEFINITION. The serial link: receiver, dispatch, execution, cache, transmitter and rate changes (spec/09). -/

namespace Sys2Proof.Machine

/-! ### Execution (R157, R160) -/

/-- A command is a repeat of the one that the cache records; SEQ 0 never is (R160). -/
def Request.repeated (r : Request) (cache : Option Cached) : Option Reply :=
  match cache with
  | none => none
  | some c => if r.seq ≠ 0#8 ∧ c.seq = r.seq ∧ c.kind = r.kind then some c.reply else none

/-- A response joins the response queue at its tail (R157). -/
def pushResponse (r : Response) (s : State) : State := s.withSlk { s.slk with responses := s.slk.responses ++ [r] }

/-- Whether an execution pauses those behind it (R157). -/
def Role.pause (now : Pause) : Role → Pause
  | .plain => now
  | .rateChange _ => .rateChange
  | .partReset => .softReset

/-- The response of an execution joins the queue and the cache (R157, R160). -/
def answer (r : Request) (a : Answer) (s : State) : State :=
  pushResponse { seq := r.seq, kind := r.kind, reply := a.reply, role := a.role }
    (s.withSlk { s.slk with
      cache := some { seq := r.seq, kind := r.kind, reply := a.reply }
      pause := a.role.pause s.slk.pause })

/-- An execution's response on its way: queue and cache, and the transmitter's choice (R157, R160, R161). -/
def respond (r : Request) (a : Answer) (s : State) : State := serve (answer r a s)

/-- One command: answered from the cache when it is a repeat, executed otherwise (R158, R160). -/
def perform (r : Request) (s : State) : State :=
  match r.repeated s.slk.cache with
  | some reply =>
    pushResponse { seq := r.seq, kind := r.kind, reply := { reply with repeated := true }, role := .plain } s
  | none => answer r (execute r s).2 (execute r s).1

/-- Execution goes on: a command waits, a response place is free and nothing pauses it (R157). -/
def State.canExecute (s : State) : Bool :=
  !s.slk.requests.isEmpty && decide (s.slk.responses.length < Config.linkCapacity) && s.slk.pause == .running

/-- The command at the head leaves the request queue and is executed (R157). -/
def executeHead (s : State) : State :=
  match s.slk.requests with
  | [] => s
  | r :: rest => perform r (s.withSlk { s.slk with requests := rest })

/-- Waiting commands are executed one after another while the conditions hold; an idle transmitter takes each response at
once (R157, R161). The bound is the number of commands waiting. -/
def executeLoop : Nat → State → State
  | 0, s => s
  | fuel + 1, s => if s.canExecute then executeLoop fuel (serve (executeHead s)) else s

def executeWaiting (s : State) : State := executeLoop s.slk.requests.length s

/-- The end of a link event: the transmitter chooses, and the waiting commands are executed, at once or at the next idle
step (R157, R161, log 9). That the transmitter chooses first, and so may take a notice before a command that can now be executed
produces its response, is the model's choice (R161, R162, log 24). -/
def finishLink (s : State) : State :=
  let s := serve s
  if s.sched.deferExec then s else executeWaiting s

/-! ### Dispatch (R155, R156) -/

/-- A 16-bit counter that stands at 65535 stays there (R155). -/
def bump (n : Nat) : Nat := min (n + 1) 65535

/-- A good frame joins the request queue, or is answered BUSY, or is dropped (R156). -/
def dispatch (r : Request) (s : State) : State :=
  if s.slk.requests.length < Config.linkCapacity then s.withSlk { s.slk with requests := s.slk.requests ++ [r] }
  else if s.slk.pause ≠ .softReset ∧ s.slk.responses.length < Config.linkCapacity then
    pushResponse { seq := r.seq, kind := r.kind, reply := .plain .busy 0 [], role := .plain } s
  else s.withSlk { s.slk with busyDrops := bump s.slk.busyDrops }

/-- A command that is sent whole: dispatched, and executed if it can be (log 10). -/
def submit (r : Request) (s : State) : State := executeWaiting (serve (dispatch r s))

/-! ### The receiver (R152, R153, R154) -/

/-- The receiver gives up or completes a frame (R152, R153, R154). -/
def Rx.hunt (x : Rx) : Rx := { x with phase := .hunt, gapFrom := none }

/-- A frame begins: SYNC at the given rate (R152). -/
def Rx.begin (rate : Fin 6) (now : Time) (x : Rx) : Rx :=
  { x with phase := .length, crc := crcStart, syncRate := rate, gapFrom := some now }

/-- LEN in range (R152). -/
def Rx.takeLength (v : Byte) (now : Time) (x : Rx) : Rx :=
  { x with phase := .body, crc := crcByte x.crc v, left := v.toNat, body := [], gapFrom := some now }

/-- A byte of SEQ, KIND or payload; after the last the check bytes follow (R153). -/
def Rx.takeBody (v : Byte) (now : Time) (x : Rx) : Rx :=
  { x with
    phase := if x.left ≤ 1 then .check else .body
    crc := crcByte x.crc v, left := x.left - 1, body := x.body ++ [v], checkHigh := none, gapFrom := some now }

/-- The trial ends at a good frame whose SYNC was received at the new rate (R163). -/
def endTrialAtFrame (s : State) : State :=
  if s.slk.link = .trial ∧ s.slk.rx.syncRate = s.slk.rate then s.withSlk s.slk.endTrial else s

/-- A good frame acts on a trial and is dispatched (R153, R156, R163). -/
def goodFrame (s : State) : State :=
  match s.slk.rx.body with
  | seq :: kind :: payload => dispatch { seq := seq, kind := kind, payload := payload } (endTrialAtFrame s)
  | _ => s

/-- The second check byte: the frame is good, or a CRC error (R153). -/
def checkFrame (high low : Byte) (s : State) : State :=
  let good := s.slk.rx.crc = high ++ low
  let s := s.withSlk { s.slk with rx := s.slk.rx.hunt }
  if good then goodFrame s else s.withSlk { s.slk with crcErrors := bump s.slk.crcErrors }

/-- Change the receiver. -/
def modRx (f : Rx → Rx) (s : State) : State := s.withSlk { s.slk with rx := f s.slk.rx }

/-- One byte at the receiver, received at the given rate (Table 65). -/
def receiveAt (rate : Fin 6) (v : Byte) (s : State) : State :=
  match s.slk.rx.phase with
  | .hunt => if v = 0x5A#8 then modRx (Rx.begin rate s.partTime) s else s
  | .length =>
    if 2 ≤ v.toNat ∧ v.toNat ≤ 126 then modRx (Rx.takeLength v s.partTime) s
    else s.withSlk { s.slk with rx := s.slk.rx.hunt, lengthErrors := bump s.slk.lengthErrors }
  | .body => modRx (Rx.takeBody v s.partTime) s
  | .check =>
    match s.slk.rx.checkHigh with
    | none => modRx (fun x => { x with checkHigh := some v, gapFrom := some s.partTime }) s
    | some high => checkFrame high v s

/-- The rate at which the start bit of the byte in reception was taken, none when no byte is in reception (R162). -/
def RxLine.rate : RxLine → Option (Fin 6)
  | .waitHigh => none
  | .ready => none
  | .receiving rate _ _ => some rate
  | .sampled rate => some rate

/-- A byte is taken, at the rate at which its start bit was taken, or the present one; the next start bit is looked for once
RXD is high (R149, R152, R162, log 14). -/
def takeByte (v : Byte) (s : State) : State :=
  finishLink (receiveAt (s.slk.rx.line.rate.getD s.slk.rate) v (modRx (fun x => { x with line := .waitHigh }) s))

/-- RECEIVE_BYTE (R149, R152). -/
def execReceiveByte (v : Byte) (s : State) : Answered := unlessHeld (takeByte v) s

/-- No start bit has come, but for one at this very tick where the gap watch is taken first (R154, log 7). -/
def RxLine.quiet (gapFirst : Bool) : RxLine → Bool
  | .waitHigh => true
  | .ready => true
  | .receiving _ ticks _ => gapFirst && ticks == 0
  | .sampled _ => false

/-- The gap watch has run for 2 ms without a new start bit (R154). -/
def Rx.gapDue (gapFirst : Bool) (now : Time) (x : Rx) : Bool :=
  x.phase != .hunt && x.line.quiet gapFirst && ((x.gapFrom.map fun t => decide (2000 ≤ (now - t).toNat)).getD false)

def State.gapDue (s : State) : Bool := s.slk.rx.gapDue s.sched.gapFirst s.partTime

/-- GAP_WATCH_EXPIRY (R154). -/
def execGapWatchExpiry (s : State) : Answered :=
  unlessHeld (fun s =>
    if s.gapDue then s.withSlk { s.slk with rx := s.slk.rx.hunt, gapErrors := bump s.slk.gapErrors } else s) s

/-! ### The end of a frame (R136, R161, R162) -/

/-- The link takes a new rate and begins its trial; execution resumes (R162). -/
def changeRate (new : Fin 6) (s : State) : State :=
  s.withSlk { s.slk with
    rate := new
    oldRate := some s.slk.rate
    link := .trial
    trialDeadline := some (s.partTime + 2000000#32)
    pause := .running }

/-- The frame in transmission has ended: what its role brings about, and the transmitter's next choice (R161). -/
def frameEnd (s : State) : State :=
  match s.slk.tx with
  | .idle => s
  | .sending _ _ role _ =>
    let s := s.withSlk { s.slk with tx := .idle }
    match role with
    | .plain => finishLink s
    | .rateChange new => finishLink (changeRate new s)
    | .partReset => softReset s

/-- TRANSMIT_END (R161, log 15). -/
def execTransmitEnd (s : State) : Answered := unlessHeld frameEnd s

/-- LINK_RATE_CHANGE: the last bit of the response of a taken LINK_SET leaves TXD (R162). -/
def execLinkRateChange (s : State) : Answered :=
  unlessHeld (fun s => match s.slk.tx with
    | .sending _ _ (.rateChange _) _ => frameEnd s
    | _ => s) s

/-- SOFT_RESET: the last bit of the response of PART_RESET leaves TXD (R136). -/
def execSoftReset (s : State) : Answered :=
  unlessHeld (fun s => match s.slk.tx with
    | .sending _ _ .partReset _ => frameEnd s
    | _ => s) s

/-- The trial deadline has come in TRIAL (R163). -/
def State.trialDue (s : State) : Bool := s.slk.link == .trial && deadlineMet s.slk.trialDeadline s.partTime

/-- The old rate returns, and N_LINK follows (R163). -/
def revertRate (s : State) : State :=
  let restored := s.slk.oldRate.getD s.slk.rate
  (s.withSlk { s.slk.endTrial with rate := restored }).offer (.link s.slk.rate restored)

/-- TRIAL_DEADLINE_EXPIRY (R163). -/
def execTrialDeadlineExpiry (s : State) : Answered :=
  unlessHeld (fun s => if s.trialDue then serve (revertRate s) else s) s

/-! ### The link commands as rows (R158, log 10) -/

def execIdent (seq : Byte) (p : List Byte) (s : State) : Answered := unlessHeld (submit ⟨seq, Cmd.ident.code, p⟩) s
def execStatus (seq : Byte) (p : List Byte) (s : State) : Answered := unlessHeld (submit ⟨seq, Cmd.status.code, p⟩) s
def execLinkSet (seq : Byte) (p : List Byte) (s : State) : Answered := unlessHeld (submit ⟨seq, Cmd.linkSet.code, p⟩) s
def execLinkStatus (seq : Byte) (p : List Byte) (s : State) : Answered := unlessHeld (submit ⟨seq, Cmd.linkStatus.code, p⟩) s
def execPartReset (seq : Byte) (p : List Byte) (s : State) : Answered := unlessHeld (submit ⟨seq, Cmd.partReset.code, p⟩) s
def execLineSet (seq : Byte) (p : List Byte) (s : State) : Answered := unlessHeld (submit ⟨seq, Cmd.lineSet.code, p⟩) s
def execPosSet (seq : Byte) (p : List Byte) (s : State) : Answered := unlessHeld (submit ⟨seq, Cmd.posSet.code, p⟩) s
def execSenseSet (seq : Byte) (p : List Byte) (s : State) : Answered := unlessHeld (submit ⟨seq, Cmd.senseSet.code, p⟩) s
def execMarkSet (seq : Byte) (p : List Byte) (s : State) : Answered := unlessHeld (submit ⟨seq, Cmd.markSet.code, p⟩) s
def execStnWrite (seq : Byte) (p : List Byte) (s : State) : Answered := unlessHeld (submit ⟨seq, Cmd.stnWrite.code, p⟩) s
def execStnRead (seq : Byte) (p : List Byte) (s : State) : Answered := unlessHeld (submit ⟨seq, Cmd.stnRead.code, p⟩) s
def execChkWrite (seq : Byte) (p : List Byte) (s : State) : Answered := unlessHeld (submit ⟨seq, Cmd.chkWrite.code, p⟩) s
def execChkRead (seq : Byte) (p : List Byte) (s : State) : Answered := unlessHeld (submit ⟨seq, Cmd.chkRead.code, p⟩) s
def execBankParam (seq : Byte) (p : List Byte) (s : State) : Answered := unlessHeld (submit ⟨seq, Cmd.bankParam.code, p⟩) s
def execBankCommit (seq : Byte) (p : List Byte) (s : State) : Answered := unlessHeld (submit ⟨seq, Cmd.bankCommit.code, p⟩) s
def execBankCancel (seq : Byte) (p : List Byte) (s : State) : Answered := unlessHeld (submit ⟨seq, Cmd.bankCancel.code, p⟩) s
def execLinesSet (seq : Byte) (p : List Byte) (s : State) : Answered := unlessHeld (submit ⟨seq, Cmd.linesSet.code, p⟩) s
def execOutForce (seq : Byte) (p : List Byte) (s : State) : Answered := unlessHeld (submit ⟨seq, Cmd.outForce.code, p⟩) s
def execRunStart (seq : Byte) (p : List Byte) (s : State) : Answered := unlessHeld (submit ⟨seq, Cmd.runStart.code, p⟩) s

/-- RUN_STOP with stop kind DRAIN; the operand is the rest of the payload (log 11). -/
def execRunStopDrain (seq : Byte) (limit : List Byte) (s : State) : Answered :=
  unlessHeld (submit ⟨seq, Cmd.runStop.code, 0x00#8 :: limit⟩) s

/-- RUN_STOP with stop kind FLUSH; the operand is the rest of the payload (log 11). -/
def execRunStopFlush (seq : Byte) (limit : List Byte) (s : State) : Answered :=
  unlessHeld (submit ⟨seq, Cmd.runStop.code, 0x01#8 :: limit⟩) s

def execFaultClear (seq : Byte) (p : List Byte) (s : State) : Answered := unlessHeld (submit ⟨seq, Cmd.faultClear.code, p⟩) s
def execItemTag (seq : Byte) (p : List Byte) (s : State) : Answered := unlessHeld (submit ⟨seq, Cmd.itemTag.code, p⟩) s
def execItemVerdict (seq : Byte) (p : List Byte) (s : State) : Answered := unlessHeld (submit ⟨seq, Cmd.itemVerdict.code, p⟩) s
def execItemInject (seq : Byte) (p : List Byte) (s : State) : Answered := unlessHeld (submit ⟨seq, Cmd.itemInject.code, p⟩) s
def execQueueRead (seq : Byte) (p : List Byte) (s : State) : Answered := unlessHeld (submit ⟨seq, Cmd.queueRead.code, p⟩) s
def execNoticeClass (seq : Byte) (p : List Byte) (s : State) : Answered := unlessHeld (submit ⟨seq, Cmd.noticeClass.code, p⟩) s

/-- UNKNOWN_KIND_COMMAND: any KIND, answered by what R158 says of it. -/
def execUnknownKindCommand (seq kind : Byte) (p : List Byte) (s : State) : Answered := unlessHeld (submit ⟨seq, kind, p⟩) s

end Sys2Proof.Machine
end

