-- ==== Sys2Proof/Machine/Dispatch.lean ====
section
/-! DEFINITION. What each command does: one arm per constructor of Instr. -/

namespace Sys2Proof.Machine

def exec (i : Instr) (s : State) : Host.Outcome State Fault Refusal :=
  match i with
  | .powerOnReset => Sys2Proof.Machine.execPowerOnReset s
  | .pinReset => Sys2Proof.Machine.execPinReset s
  | .softReset => Sys2Proof.Machine.execSoftReset s
  | .count phase => Sys2Proof.Machine.execCount phase s
  | .illegalTransition => Sys2Proof.Machine.execIllegalTransition s
  | .indexEdge => Sys2Proof.Machine.execIndexEdge s
  | .subStep => Sys2Proof.Machine.execSubStep s
  | .standstillWatchExpiry => Sys2Proof.Machine.execStandstillWatchExpiry s
  | .senseEdge input => Sys2Proof.Machine.execSenseEdge input s
  | .fltInActivation => Sys2Proof.Machine.execFltInActivation s
  | .fltInRelease => Sys2Proof.Machine.execFltInRelease s
  | .maxOnDeadlineExpiry bank station => Sys2Proof.Machine.execMaxOnDeadlineExpiry bank station s
  | .timePulseEnd bank station => Sys2Proof.Machine.execTimePulseEnd bank station s
  | .drainDeadlineExpiry => Sys2Proof.Machine.execDrainDeadlineExpiry s
  | .receiveByte value => Sys2Proof.Machine.execReceiveByte value s
  | .gapWatchExpiry => Sys2Proof.Machine.execGapWatchExpiry s
  | .transmitEnd => Sys2Proof.Machine.execTransmitEnd s
  | .linkRateChange => Sys2Proof.Machine.execLinkRateChange s
  | .trialDeadlineExpiry => Sys2Proof.Machine.execTrialDeadlineExpiry s
  | .ident seq payload => Sys2Proof.Machine.execIdent seq payload s
  | .status seq payload => Sys2Proof.Machine.execStatus seq payload s
  | .linkSet seq payload => Sys2Proof.Machine.execLinkSet seq payload s
  | .linkStatus seq payload => Sys2Proof.Machine.execLinkStatus seq payload s
  | .partReset seq payload => Sys2Proof.Machine.execPartReset seq payload s
  | .lineSet seq payload => Sys2Proof.Machine.execLineSet seq payload s
  | .posSet seq payload => Sys2Proof.Machine.execPosSet seq payload s
  | .senseSet seq payload => Sys2Proof.Machine.execSenseSet seq payload s
  | .markSet seq payload => Sys2Proof.Machine.execMarkSet seq payload s
  | .stnWrite seq payload => Sys2Proof.Machine.execStnWrite seq payload s
  | .stnRead seq payload => Sys2Proof.Machine.execStnRead seq payload s
  | .chkWrite seq payload => Sys2Proof.Machine.execChkWrite seq payload s
  | .chkRead seq payload => Sys2Proof.Machine.execChkRead seq payload s
  | .bankParam seq payload => Sys2Proof.Machine.execBankParam seq payload s
  | .bankCommit seq payload => Sys2Proof.Machine.execBankCommit seq payload s
  | .bankCancel seq payload => Sys2Proof.Machine.execBankCancel seq payload s
  | .linesSet seq payload => Sys2Proof.Machine.execLinesSet seq payload s
  | .outForce seq payload => Sys2Proof.Machine.execOutForce seq payload s
  | .runStart seq payload => Sys2Proof.Machine.execRunStart seq payload s
  | .runStopDrain seq limit => Sys2Proof.Machine.execRunStopDrain seq limit s
  | .runStopFlush seq limit => Sys2Proof.Machine.execRunStopFlush seq limit s
  | .faultClear seq payload => Sys2Proof.Machine.execFaultClear seq payload s
  | .itemTag seq payload => Sys2Proof.Machine.execItemTag seq payload s
  | .itemVerdict seq payload => Sys2Proof.Machine.execItemVerdict seq payload s
  | .itemInject seq payload => Sys2Proof.Machine.execItemInject seq payload s
  | .queueRead seq payload => Sys2Proof.Machine.execQueueRead seq payload s
  | .noticeClass seq payload => Sys2Proof.Machine.execNoticeClass seq payload s
  | .unknownKindCommand seq kind payload => Sys2Proof.Machine.execUnknownKindCommand seq kind payload s

end Sys2Proof.Machine
end

