-- ==== Sys2Proof/Machine/Idle.lean ====
section
/-! DEFINITION. What a step does on an empty queue: one fine tick, with its samples and the events that fall due (log 3). -/

namespace Sys2Proof.Machine

/-- One sample at a filter: the stability count, and whether the filtered level takes the raw level at this sample. The event
that follows makes the change itself. The first sample after a reset gives the level, which is no change (R1, R19, R20, R122). -/
def Filt.sample (time : Nat) (raw : Bool) (f : Filt) : Filt × Bool :=
  if f.unsampled then (.ofSample raw, false)
  else if raw = f.level then ({ f with diff := 0 }, false)
  else if time ≤ f.diff then (f, true)
  else ({ f with diff := f.diff + 1 }, false)

/-- The filter time of FLT_IN: 10 µs, which is 320 fine ticks (R122). -/
def fltFilter : Nat := 320

/-- Part time counts a microsecond at every 32 fine ticks (00_scope.md, Table 4). -/
def advanceClock (s : State) : State :=
  if s.fine + 1 < 32 then s.withClock s.partTime (s.fine + 1) else s.withClock (s.partTime + 1#32) 0

/-- The time since the previous count, and the sub-step timer, count the tick (R6, R7). -/
def Lei.tick (l : Lei) : Lei :=
  { l with sinceCount := min (l.sinceCount + 1) Config.maxInterval, subTimer := l.subTimer.map (· - 1) }

/-- The levels of the coming sample; where none is given the pins stay as they are (log 4). -/
def takeSample (s : State) : State :=
  match s.samples with
  | [] => s
  | p :: rest => (s.withSamples rest).withPins p

/-- The frame in transmission goes on for one fine tick (R149). -/
def Tx.tick : Tx → Tx
  | .idle => .idle
  | .sending f rate role ticks => .sending f rate role (ticks + 1)

/-- One sample of RXD at the byte receiver, with the byte that is then complete: the eight data bits as sampled, the least
significant first, whatever level the stop bit had (R149, log 14). -/
def RxLine.sample (rate : Fin 6) (rxd : Bool) : RxLine → RxLine × Option Byte
  | .waitHigh => (if rxd then .ready else .waitHigh, none)
  | .ready => (if rxd then .ready else .receiving rate 0 [], none)
  | .sampled r => (.sampled r, none)
  | .receiving r ticks bits =>
    if ticks + 1 < middleOf r (bits.length + 1) then (.receiving r (ticks + 1) bits, none)
    else if bits.length < 8 then (.receiving r (ticks + 1) (bits ++ [rxd]), none)
    else (.sampled r, some (BitVec.ofNat 8 (flagByte (bits.take 8))))

/-- The encoder inputs at a sample, with the events that follow; a falling ENC_Z is no event (R1, R2, R3, R14). -/
def sampleEncoder (s : State) : State × List Instr :=
  let f := s.lei.cfg.filter
  let a := s.lei.encA.sample f s.pins.encA
  let b := s.lei.encB.sample f s.pins.encB
  let z := s.lei.encZ.sample f s.pins.encZ
  let zFilt := if z.2 && !s.pins.encZ then Filt.ofSample false else z.1
  (s.withLei { s.lei with encA := a.1, encB := b.1, encZ := zFilt },
    (match a.2, b.2 with
      | true, true => [.illegalTransition]
      | true, false => [.count .a]
      | false, true => [.count .b]
      | false, false => []) ++
    (if z.2 && s.pins.encZ then [.indexEdge] else []))

def allInputs : List (Fin 4) := [0, 1, 2, 3]

/-- One sense input at a sample (R20). -/
def sampleSense (i : Fin 4) (s : State) : State × List Instr :=
  let r := (s.sns[i]).filt.sample ((s.sns[i]).filterUs * 32) s.pins.sn[i]
  (s.withSns (s.sns.set i { s.sns[i] with filt := r.1 }), if r.2 then [.senseEdge i] else [])

/-- FLT_IN at a sample (R122). -/
def sampleFlt (s : State) : State × List Instr :=
  let r := s.run.flt.sample fltFilter s.pins.fltIn
  (s.withRun { s.run with flt := r.1 },
    if r.2 then [if s.pins.fltIn then .fltInRelease else .fltInActivation] else [])

/-- RXD at a sample (R149). -/
def sampleRxd (s : State) : State × List Instr :=
  let r := s.slk.rx.line.sample s.slk.rate s.pins.rxd
  (modRx (fun x => { x with line := r.1 }) s, r.2.toList.map .receiveByte)

/-- Run the samplers one after another, with the events of each. -/
def sampleAll : List (State → State × List Instr) → State → State × List Instr
  | [], s => (s, [])
  | f :: rest, s =>
    let r := f s
    let r' := sampleAll rest r.1
    (r'.1, r.2 ++ r'.2)

def samplers : List (State → State × List Instr) := sampleEncoder :: allInputs.map sampleSense ++ [sampleFlt, sampleRxd]

/-- The event that the end of a frame in transmission is (R136, R161, R162). -/
def Tx.endEvent : Tx → List Instr
  | .idle => []
  | .sending _ _ .plain _ => [.transmitEnd]
  | .sending _ _ (.rateChange _) _ => [.linkRateChange]
  | .sending _ _ .partReset _ => [.softReset]

/-- The time-driven events whose conditions hold (R7, R9, R78, R79, R128, R154, R161, R163). -/
def dueEvents (s : State) : List Instr :=
  (if s.lei.subStepDue s.run.mode then [.subStep] else []) ++
  (if s.lei.standstillDue s.partTime then [.standstillWatchExpiry] else []) ++
  (allStations.filter fun p => s.maxOnDue p.1 p.2).map (fun p => .maxOnDeadlineExpiry p.1 p.2) ++
  (allStations.filter fun p => s.timeEndDue p.1 p.2).map (fun p => .timePulseEnd p.1 p.2) ++
  (if s.drainDue then [.drainDeadlineExpiry] else []) ++
  (if s.gapDue then [.gapWatchExpiry] else []) ++
  (if s.trialDue then [.trialDeadlineExpiry] else []) ++
  (if s.slk.tx.done then s.slk.tx.endEvent else [])

/-- The events of a tick up to a soft reset among them. Those behind it are not taken: the reset begins every block anew, and
the levels are taken from the next sample (R19, R37, R136, R167). -/
def upToReset : List Instr → List Instr
  | [] => []
  | .softReset :: _ => [.softReset]
  | i :: rest => i :: upToReset rest

/-- One fine tick of a part that is not held: the clock, the timers and the transmitter go on, the pins are sampled, and the
events of the samples and of the deadlines join the queue in an order that the state gives, up to a soft reset (log 7). A start
bit found at the very tick at which the link rate changes is taken at the rate before the change, the model's choice (R162,
R163, log 7). -/
def runTick (s : State) : State :=
  let s := advanceClock s
  let s := (s.withLei s.lei.tick).withSlk { s.slk with tx := s.slk.tx.tick }
  let r := sampleAll samplers s
  r.1.withPending (r.1.pending ++ upToReset (arrange s.sched.events (r.2 ++ dueEvents r.1)))

/-- One fine tick. While RESETN is low the part is held in its reset state and samples nothing; the tick at which RESETN is
high again brings the PIN_RESET with which the part starts (R135, R167). -/
def fineTick (s : State) : State :=
  let t := takeSample s
  if t.held then holdReset t
  else if s.held then (holdReset t).withPending (t.pending ++ [.pinReset])
  else runTick t

/-- A step on an empty queue: a command that waits and can be executed is executed, else one fine tick passes (log 3,
log 9). -/
def idleStep (s : State) : State := if !s.held && s.canExecute then executeWaiting s else fineTick s

end Sys2Proof.Machine
end

