-- ==== Sys2Proof/Safety.lean ====
section
/-! DEFINITION. The conditions that every step keeps (spec/ R4, R10, R12, R23, R38, R39, R60, R80, R84, R104, R105, R121, R142,
R156), and the part of the state that the tracking core leaves alone. -/

namespace Sys2Proof.Machine

/-! ### What the tracking core leaves alone -/

/-- A bank less its run state, its state and its count: what STN_WRITE, CHK_WRITE and BANK_PARAM set (Table 43). -/
def Bank.recipe (k : Bank) : Bank :=
  { k with
    stations := mapV (fun st => { st with run := Station.atReset.run }) k.stations
    windows := mapV (fun wd => { wd with run := Window.atReset.run }) k.windows
    state := .idle
    count := 0
    activation := { how := .reset, first := 0#16 } }

/-- The state with all blanked that the tracking core changes as it runs: the reach and the sub-step timer, the detector's run
state, the items, the banks less their recipes, the latches, the mode and the faults, the queued notices, and what the
transmitter has taken. Two states that agree here agree in every setting, in the line's counting state, in the inputs, in the
time and in the rest of the link. -/
def State.fixed (s : State) : State :=
  { s with
    lei := { s.lei with reach := 0#32, subTimer := none }
    mkd := { Mkd.atReset with cfg := s.mkd.cfg }
    iq := .atReset
    banks := mapV Bank.recipe s.banks
    act := mapV (fun l => { l with latch := false }) s.act
    run := { mode := .configure, faults := .empty, first := none, drain := none, flt := s.run.flt }
    ntq := { Ntq.atReset with classes := s.ntq.classes }
    slk := { s.slk with responses := [], tx := .idle } }

/-! ### A change of one filtered phase -/

/-- The count that a change of one filtered phase gives, if any, from the levels after it (R2, Table 11). -/
def State.countOf (phase : Phase) (s : State) : Option Dir :=
  match phase with
  | .a => s.lei.cfg.decode .a (!s.lei.encA.level) s.lei.encB.level
  | .b => s.lei.cfg.decode .b s.lei.encA.level (!s.lei.encB.level)

/-! ### What the blocks do at one event of the line -/

/-- Every station, and every window, of both banks. -/
def stationPlaces : List (Fin 2 × Fin 16) := (List.finRange 2).flatMap fun b => (List.finRange 16).map fun n => (b, n)

def windowPlaces : List (Fin 2 × Fin 4) := (List.finRange 2).flatMap fun b => (List.finRange 4).map fun w => (b, w)

/-- From s to t: LEI takes the state l, and the blocks act on it one after another in some order (log 6): N_MOTION for a change of
the motion state (R9, R10), the reverse limit test at a reverse count (R13), and at a change of the reach the tests of every block
(R11): the release of the last accepted position (R27), the qualification (R26) and close test (R29) of the detector, the verdict
close tests (R45), the tests of each window (R93, R95), the end test of each DISTANCE pulse (R77) and the due test of each station
(R68). Where the reach stays, the due tests of the stations whose lead distance has changed (R68). -/
def State.blocksAct (reverse : Bool) (l : Lei) (s t : State) : Prop :=
  let after := s.withLei l
  let note : Option NoticeBody :=
    if l.motion = s.lei.motion then none else some (.motion l.motion s.lei.motion l.position l.reach)
  ∃ tasks : List Task,
    tasks.Perm ([.motion] ++ (if reverse then [.reverseLimit] else []) ++
      (if l.reach = s.lei.reach then
        (stationPlaces.filter fun p => decide (s.lead p.1 p.2 ≠ after.lead p.1 p.2)).map fun p => .station p.1 p.2
      else [.markRelease, .markQualify, .markClose, .verdicts] ++ windowPlaces.map (fun p => .window p.1 p.2) ++
        stationPlaces.map (fun p => .pulseEnd p.1 p.2) ++ stationPlaces.map (fun p => .station p.1 p.2))) ∧
    t = tasks.foldl (fun u task => task.run note u) after

/-! ### A link that executes a command at once -/

/-- RESETN is high, no command waits, nothing pauses execution, the response queue has room, and an idle transmitter has
nothing to take (R135, R157, R161). -/
def State.linkReady (s : State) : Prop :=
  s.pins.resetn = true ∧ s.slk.requests = [] ∧ s.slk.pause = .running ∧ s.slk.responses.length < Config.linkCapacity ∧
    (s.slk.tx = .idle → s.slk.responses = [] ∧ s.ntq.queue = [])

/-- A command with this SEQ and KIND is no repeat of the last command executed (R160). -/
def State.fresh (s : State) (seq kind : Byte) : Prop :=
  seq = 0#8 ∨ ∀ c, s.slk.cache = some c → c.seq = seq → c.kind ≠ kind

/-! ### The link commands as requests (R158, log 10, log 11) -/

/-- The frame that a link command stands for. -/
def requestOf : Instr → Option Request
  | .ident seq p => some ⟨seq, 0x01#8, p⟩
  | .status seq p => some ⟨seq, 0x02#8, p⟩
  | .linkSet seq p => some ⟨seq, 0x03#8, p⟩
  | .linkStatus seq p => some ⟨seq, 0x04#8, p⟩
  | .partReset seq p => some ⟨seq, 0x05#8, p⟩
  | .lineSet seq p => some ⟨seq, 0x10#8, p⟩
  | .posSet seq p => some ⟨seq, 0x11#8, p⟩
  | .senseSet seq p => some ⟨seq, 0x12#8, p⟩
  | .markSet seq p => some ⟨seq, 0x13#8, p⟩
  | .stnWrite seq p => some ⟨seq, 0x18#8, p⟩
  | .stnRead seq p => some ⟨seq, 0x19#8, p⟩
  | .chkWrite seq p => some ⟨seq, 0x1A#8, p⟩
  | .chkRead seq p => some ⟨seq, 0x1B#8, p⟩
  | .bankParam seq p => some ⟨seq, 0x1C#8, p⟩
  | .bankCommit seq p => some ⟨seq, 0x1D#8, p⟩
  | .bankCancel seq p => some ⟨seq, 0x1E#8, p⟩
  | .linesSet seq p => some ⟨seq, 0x1F#8, p⟩
  | .outForce seq p => some ⟨seq, 0x20#8, p⟩
  | .runStart seq p => some ⟨seq, 0x24#8, p⟩
  | .runStopDrain seq l => some ⟨seq, 0x25#8, 0x00#8 :: l⟩
  | .runStopFlush seq l => some ⟨seq, 0x25#8, 0x01#8 :: l⟩
  | .faultClear seq p => some ⟨seq, 0x26#8, p⟩
  | .itemTag seq p => some ⟨seq, 0x28#8, p⟩
  | .itemVerdict seq p => some ⟨seq, 0x29#8, p⟩
  | .itemInject seq p => some ⟨seq, 0x2A#8, p⟩
  | .queueRead seq p => some ⟨seq, 0x2B#8, p⟩
  | .noticeClass seq p => some ⟨seq, 0x30#8, p⟩
  | .unknownKindCommand seq kind p => some ⟨seq, kind, p⟩
  | _ => none

/-- Run commands one after another while each answers a next state. -/
def execAll : List Instr → State → Host.Outcome State Fault Refusal
  | [], s => .next s
  | i :: rest, s =>
    match exec i s with
    | .next t => execAll rest t
    | .fault r => .fault r
    | .refused r => .refused r

/-- Table 66 and Table 71, row by row: code, payload length, modes in which the command is taken. -/
def commandTable : List (Byte × Nat × List Mode) :=
  let always : List Mode := [.configure, .run, .stopping, .fault]
  [(0x01#8, 0, always), (0x02#8, 0, always), (0x03#8, 1, always), (0x04#8, 1, always), (0x05#8, 0, always),
   (0x10#8, 13, [.configure]), (0x11#8, 4, [.configure]), (0x12#8, 3, [.configure]), (0x13#8, 15, [.configure]),
   (0x18#8, 21, always), (0x19#8, 2, always), (0x1A#8, 12, always), (0x1B#8, 2, always), (0x1C#8, 5, always),
   (0x1D#8, 1, [.configure, .run, .stopping]), (0x1E#8, 1, always), (0x1F#8, 2, [.configure]), (0x20#8, 2, [.configure]),
   (0x24#8, 0, [.configure]), (0x25#8, 3, [.run, .stopping]), (0x26#8, 0, [.fault]), (0x28#8, 6, [.run, .stopping]),
   (0x29#8, 3, [.run, .stopping]), (0x2A#8, 0, [.run]), (0x2B#8, 3, always), (0x30#8, 2, always)]

/-- A field of a payload, most significant byte first: w bytes from a place on (R168). -/
def fieldAt (p : List Byte) (place w : Nat) : Nat := ((p.drop place).take w).foldl (fun n b => n * 256 + b.toNat) 0

/-- Whether each field of a command's payload is in its range, in the order of the field indices (Tables 14, 17, 18, 27, 36, 47,
54, 60 and 71; R47, R53, R57, R86, R88, R101, R112, R115, R162, R165, R173). -/
def fieldRanges (kind : Byte) (p : List Byte) : List Bool :=
  let f := fieldAt p
  if kind = 0x03#8 then [decide (f 0 1 ≤ 5)]
  else if kind = 0x04#8 then [decide (f 0 1 ≤ 1)]
  else if kind = 0x10#8 then
    [decide (f 0 1 ≤ 2), decide (f 1 1 ≤ 1), decide (f 2 1 ≤ 6), decide (f 3 1 ≤ 15), decide (1 ≤ f 4 2 ∧ f 4 2 ≤ 500),
     decide (1 ≤ f 6 1 ∧ f 6 1 ≤ 255), decide (1 ≤ f 7 2 ∧ f 7 2 ≤ 65535), decide (f 9 2 ≤ 65535), decide (f 11 1 ≤ 255),
     decide (f 12 1 ≤ 1)]
  else if kind = 0x12#8 then [decide (f 0 1 ≤ 3), decide (f 1 1 ≤ 1), decide (f 2 1 ≤ 255)]
  else if kind = 0x13#8 then
    [decide (f 0 1 ≤ 1), decide (f 1 1 ≤ 3), decide (f 2 1 ≤ 1), decide (f 3 2 ≤ 65535), decide (f 5 3 ≤ 2 ^ 24 - 1),
     decide ((f 5 3 = 0 → f 8 3 = 0) ∧ (f 5 3 ≠ 0 → 2 * f 8 3 < f 5 3)), decide (f 11 1 ≤ 15), decide (f 12 3 ≤ 2 ^ 24 - 1)]
  else if kind = 0x18#8 then
    [decide (f 0 1 ≤ 1), decide (f 1 1 ≤ 15), decide (f 2 1 ≤ 1), decide (f 3 1 ≤ 15), decide (f 4 1 ≤ 3),
     decide (f 5 3 ≤ 2 ^ 24 - 1), decide (f 8 1 ≤ 1), decide (1 ≤ f 9 3 ∧ (f 8 1 = 1 → f 9 3 ≤ 65535)),
     decide (f 8 1 = 1 → f 12 2 = 0), decide (f 14 2 ≤ 65535), decide (f 16 3 ≤ 2 ^ 20), decide (f 19 1 ≤ 4),
     decide (f 20 1 ≤ 3 ∧ (f 19 1 ≠ 3 → f 19 1 ≠ 4 → f 20 1 = 0))]
  else if kind = 0x19#8 then [decide (f 0 1 ≤ 1), decide (f 1 1 ≤ 15)]
  else if kind = 0x1A#8 then
    [decide (f 0 1 ≤ 1), decide (f 1 1 ≤ 3), decide (f 2 1 ≤ 1), decide (f 3 1 ≤ 3), decide (f 4 1 ≤ 1),
     decide (f 5 3 ≤ 2 ^ 24 - 1), decide (1 ≤ f 8 3), decide (f 11 1 ≤ 1)]
  else if kind = 0x1B#8 then [decide (f 0 1 ≤ 1), decide (f 1 1 ≤ 3)]
  else if kind = 0x1C#8 then
    [decide (f 0 1 ≤ 1), decide (f 1 3 ≤ 2 ^ 24 - 1), decide (f 4 1 = 1 ∨ f 4 1 = 2)]
  else if kind = 0x1D#8 then [decide (f 0 1 ≤ 1)]
  else if kind = 0x1E#8 then [decide (f 0 1 ≤ 1)]
  else if kind = 0x20#8 then [decide (f 0 1 ≤ 15), decide (f 1 1 ≤ 2)]
  else if kind = 0x25#8 then [decide (f 0 1 ≤ 1), decide (f 0 1 = 1 → f 1 2 = 0)]
  else if kind = 0x28#8 then [decide (f 0 2 ≠ 0)]
  else if kind = 0x29#8 then [decide (f 0 2 ≠ 0), decide (f 2 1 = 1 ∨ f 2 1 = 2)]
  else if kind = 0x2B#8 then [decide (f 0 2 ≤ 65535), decide (1 ≤ f 2 1 ∧ f 2 1 ≤ 4)]
  else if kind = 0x30#8 then
    [decide (0x41 ≤ f 0 1 ∧ f 0 1 ≤ 0x4C),
     decide (f 1 1 ≤ 3 ∧ ((f 0 1 = 0x49 ∨ f 0 1 = 0x4A) → 1 ≤ f 1 1) ∧ (f 0 1 = 0x4B → f 1 1 = 3))]
  else []

/-! ### Payloads from settings (Table 71), the inverse of what Operands.lean reads -/

def CountMode.code : CountMode → Nat
  | .x1 => 0 | .x2 => 1 | .x4 => 2

def Polarity.code : Polarity → Nat
  | .activeHigh => 0 | .activeLow => 1

def EdgeKind.code : EdgeKind → Nat
  | .rising => 0 | .falling => 1

def Forced.code : Forced → Nat
  | .none => 0 | .inactive => 1 | .active => 2

def LineCfg.payload (c : LineCfg) : List Byte :=
  be1 c.countMode.code ++ be1 c.invert.toNat ++ be1 c.s ++ be1 c.filter ++ be2 c.standstillMs ++ be1 c.revThreshold ++
  be2 c.revLimit ++ be2 c.perIndex ++ be1 c.slack ++ be1 c.indexFault.toNat

def MarkCfg.payload (c : MarkCfg) : List Byte :=
  be1 c.enable.toNat ++ be1 c.input.val ++ be1 c.edge.code ++ be2 c.minLength ++ be3 c.pitch ++ be3 c.tolerance ++
  be1 c.missLimit ++ be3 c.blanking

/-! ### Ranges of settings (Tables 14, 18, 27, 36) -/

def LineCfg.inRange (c : LineCfg) : Prop :=
  c.s ≤ 6 ∧ c.filter ≤ 15 ∧ 1 ≤ c.standstillMs ∧ c.standstillMs ≤ 500 ∧ 1 ≤ c.revThreshold ∧ c.revThreshold ≤ 255 ∧
    1 ≤ c.revLimit ∧ c.revLimit ≤ 65535 ∧ c.perIndex ≤ 65535 ∧ c.slack ≤ 255

def MarkCfg.inRange (c : MarkCfg) : Prop :=
  c.minLength ≤ 65535 ∧ c.pitch < 2 ^ 24 ∧ (c.pitch = 0 → c.tolerance = 0) ∧ (c.pitch ≠ 0 → 2 * c.tolerance < c.pitch) ∧
    c.missLimit ≤ 15 ∧ c.blanking < 2 ^ 24

def StationDef.inRange (d : StationDef) : Prop :=
  d.offset < 2 ^ 24 ∧ 1 ≤ d.length ∧ (d.lengthKind = .distance → d.length < 2 ^ 24 ∧ d.maxOn ≤ 65535) ∧
    (d.lengthKind = .time → d.length ≤ 65535 ∧ d.maxOn = 0) ∧ d.leadTime ≤ 65535 ∧ d.leadLimit ≤ 2 ^ 20 ∧
    (d.condition ≠ .windowPass → d.condition ≠ .windowFail → d.window = 0)

def WindowDef.inRange (d : WindowDef) : Prop := d.start < 2 ^ 24 ∧ 1 ≤ d.length ∧ d.length < 2 ^ 24

/-! ### Every block in its reset state (Tables 16, 23, 35, 42, 50, 63, 68; R61, R121) -/

/-- LEI, the sense inputs and FLT_IN after a reset: every filter takes its level from its first sample, without filtering (R1, R20,
R122), and until then reads as its pin stands (log 2). -/
def State.inputsAtReset (t : State) : Prop :=
  t.lei.cfg = { countMode := .x4, invert := false, s := 4, filter := 4, standstillMs := 100, revThreshold := 4,
                revLimit := 4096, perIndex := 0, slack := 0, indexFault := false } ∧
    t.lei.countReg = 0 ∧ t.lei.sub = 0 ∧ t.lei.position = 0#32 ∧ t.lei.reach = 0#32 ∧ t.lei.motion = .halted ∧
    t.lei.turning = 0 ∧ t.lei.interval = 0 ∧ t.lei.valid = false ∧ t.lei.sameDir = none ∧ t.lei.subTimer = none ∧
    t.lei.standstill = none ∧ t.lei.indexRef = false ∧ t.lei.indexCount = 0 ∧ t.lei.lastDir = none ∧
    t.lei.encA.level = t.pins.encA ∧ t.lei.encB.level = t.pins.encB ∧ t.lei.encZ.level = t.pins.encZ ∧
    t.lei.encA.unsampled = true ∧ t.lei.encB.unsampled = true ∧ t.lei.encZ.unsampled = true ∧
    t.run.flt.level = t.pins.fltIn ∧ t.run.flt.unsampled = true ∧
    ∀ i : Fin 4, (t.sns[i]).polarity = .activeHigh ∧ (t.sns[i]).filterUs = 0 ∧ (t.sns[i]).filt.level = t.pins.sn[i] ∧
      (t.sns[i]).filt.unsampled = true

/-- The tracking core and run control after a reset. -/
def State.coreAtReset (t : State) : Prop :=
  t.run.mode = .configure ∧ t.run.faults = .empty ∧ t.run.first = none ∧ t.run.drain = none ∧ t.partTime = 0#32 ∧
    t.mkd = { cfg := { enable := false, input := 0, edge := .rising, minLength := 0, pitch := 0, tolerance := 0,
                       missLimit := 0, blanking := 0 },
              state := .idle, expected := 0#32, missRun := 0, lastAccepted := none, candidate := none,
              deferred := false, lastCreated := 0#16 } ∧
    t.iq.items = [] ∧ t.iq.next = 1#16 ∧
    (∀ b n, (t.station b n).cfg = { enabled := false, line := 0, action := .pulse, offset := 0, lengthKind := .distance,
                                    length := 1, maxOn := 0, leadTime := 0, leadLimit := 0, condition := .always,
                                    window := 0 } ∧
      (t.station b n).run = { cursor := none, held := false, on := false, pulseLine := 0, endKind := .distance,
                              endTarget := 0#32, opening := 0#16, maxOn := none, lastEnd := .none }) ∧
    (∀ b w, (t.window b w).cfg = { enabled := false, input := 0, expected := .active, start := 0, length := 1,
                                   rule := .any } ∧
      (t.window b w).run = { cursor := none, opened := false, recItem := 0#16, recStart := 0#32, recClose := 0#32,
                             seenActive := false, seenInactive := false, last := .notUsed }) ∧
    (∀ l, t.line l = { latch := false, polarity := .activeHigh, forced := .none }) ∧
    (∀ b, (t.bank b).closeDistance = 0 ∧ (t.bank b).defaultVerdict = .accept ∧ (t.bank b).count = 0 ∧
      (t.bank b).activation = { how := .reset, first := 0#16 }) ∧
    (t.bank 0).state = .active ∧ (t.bank 1).state = .idle

/-- The link after a reset, at the rate code that the kind of reset leaves, but for its transmitter (Table 68). -/
def State.linkCleared (t : State) (rate : Fin 6) : Prop :=
  t.slk.rate = rate ∧ t.slk.link = .steady ∧ t.slk.trialDeadline = none ∧ t.slk.oldRate = none ∧
    t.slk.rx.phase = .hunt ∧ t.slk.rx.line = .waitHigh ∧ t.slk.requests = [] ∧ t.slk.responses = [] ∧
    t.slk.cache = none ∧ t.slk.pause = .running ∧
    t.slk.crcErrors = 0 ∧ t.slk.lengthErrors = 0 ∧ t.slk.gapErrors = 0 ∧ t.slk.busyDrops = 0

/-- The notice queue and the link after a reset, N_MODE RESET with number 0 having gone to the transmitter. -/
def State.linkAtReset (t : State) (rate : Fin 6) (previous : Mode) (kind : ResetKind) : Prop :=
  t.ntq = { queue := [], next := 1#16, classes := #v[1, 0, 2, 1, 3, 2, 1, 2, 3, 3, 3, 2] } ∧ t.linkCleared rate ∧
    t.slk.tx = .sending
      (Notice.frame { number := 0#16, cls := 3, time := 0#32,
                      body := .mode .configure previous .reset 0 0#16 0#16 0#32 0#32 0 (some kind) })
      rate .plain 0

/-- Every block in its reset state with no notice queued and nothing sent: every OUT pin low, TXD high, no start bit looked for
(R135, R167). -/
def State.inReset (t : State) : Prop :=
  t.inputsAtReset ∧ t.coreAtReset ∧ t.linkCleared 0 ∧
    t.ntq = { queue := [], next := 0#16, classes := #v[1, 0, 2, 1, 3, 2, 1, 2, 3, 3, 3, 2] } ∧ t.slk.tx = .idle ∧
    (∀ l, t.outPin l = false) ∧ t.txd = true

/-! ### Changes of mode, from the state before to the state after (Table 53) -/

/-- The detector IDLE, candidate and deferred miss dropped, the rest kept (R23). -/
def Mkd.dropped (m : Mkd) : Mkd := { m with state := .idle, candidate := none, deferred := false }

/-- The run state of a station whose pulse, if ON, has ended with cause MODE (R80). -/
def StationRun.stopped (r : StationRun) : StationRun :=
  if r.on then { r with on := false, maxOn := none, lastEnd := .mode } else r

/-- Entry to FAULT from RUN or STOPPING (R130): the items, cursors and windows frozen, pulses and latches ended, an ARMED bank
cancelled with N_BANK CANCEL (R119), and nothing else changed. -/
def State.faultEntered (cause : Cause) (s t : State) : Prop :=
  t.run.mode = .fault ∧ t.run.first = some cause ∧ t.run.faults = FaultSet.empty.add cause ∧ t.run.drain = none ∧
    t.run.flt = s.run.flt ∧ t.lei = { s.lei with subTimer := none } ∧ t.iq = s.iq ∧ t.mkd = s.mkd.dropped ∧
    t.fixed = s.fixed ∧
    (∀ b n, t.station b n = { s.station b n with run := (s.station b n).run.stopped }) ∧
    (∀ b w, t.window b w = s.window b w) ∧
    (∀ l, t.line l = { s.line l with latch := false } ∧ t.pinActive l = false) ∧
    (∀ b, (t.bank b).count = (s.bank b).count ∧ (t.bank b).activation = (s.bank b).activation ∧
      (t.bank b).state = if s.armedBank = some b then .idle else (s.bank b).state) ∧
    let before := (t.withNtq s.ntq).withSlk s.slk
    t = match s.armedBank with
      | none => before
      | some b => before.offer (.bank .cancel b (t.bank 0).state (t.bank 0).count (t.bank 1).state (t.bank 1).count 0#16
          s.lei.reach)

/-- What every entry to CONFIGURE by a flush or a clear leaves: every item removed, pulses and latches ended, cursors none,
the reach at the position, an ARMED bank in force with N_BANK ACTIVATE, which carries that reach (log 23), and nothing else
changed but the fault set (R12, R60, R66, R80, R84, R99, R117, R118). -/
def State.flushed (s t : State) : Prop :=
  t.run.mode = .configure ∧ t.run.drain = none ∧ t.iq = { items := [], next := s.iq.next } ∧ t.mkd = s.mkd.dropped ∧
    t.lei = { s.lei with reach := s.lei.position } ∧ t.fixed = s.fixed ∧
    (∀ b n, t.station b n =
      { s.station b n with run := { (s.station b n).run.stopped with cursor := none, held := false } }) ∧
    (∀ b w, t.window b w = { s.window b w with run := { (s.window b w).run with cursor := none, opened := false } }) ∧
    (∀ l, t.line l = { s.line l with latch := false }) ∧
    (∀ b, (t.bank b).count = 0) ∧
    (∀ b, (s.bank b).state = .armed →
      (t.bank b).state = .active ∧ (t.bank b).activation = { how := .switch, first := 0#16 } ∧
        (t.bank (otherBank b)).state = .idle) ∧
    ((∀ b, (s.bank b).state ≠ .armed) → ∀ b, (t.bank b).activation = (s.bank b).activation ∧
      (t.bank b).state = if (s.bank b).state = .draining then .idle else (s.bank b).state) ∧
    let before := (t.withNtq s.ntq).withSlk s.slk
    t = match s.armedBank with
      | none => before
      | some b => before.offer (.bank .activate b (t.bank 0).state (t.bank 0).count (t.bank 1).state (t.bank 1).count 0#16
          s.lei.position)

/-! ### Conditions -/

/-- The queues hold no more than their capacities (R38, R142, R156). -/
def State.withinCapacity (s : State) : Prop :=
  s.iq.items.length ≤ Config.itemCapacity ∧ s.ntq.queue.length ≤ Config.noticeCapacity ∧
    s.slk.requests.length ≤ Config.linkCapacity ∧ s.slk.responses.length ≤ Config.linkCapacity

/-- Exactly one bank is ACTIVE, a bank is ARMED only in RUN and STOPPING, and a DRAINING bank has items to drain (R104,
R106). -/
def State.banksLegal (s : State) : Prop :=
  ((s.bank 0).state = .active ↔ (s.bank 1).state ≠ .active) ∧
    ∀ b, ((s.bank b).state = .armed → s.running = true) ∧ ((s.bank b).state = .draining → (s.bank b).count ≠ 0)

/-- Outside FAULT no fault is held, in FAULT the first fault is a member of the set, and a drain deadline is armed only in
STOPPING (R121). -/
def State.runLegal (s : State) : Prop :=
  (s.run.mode ≠ .fault → s.run.faults = .empty ∧ s.run.first = none) ∧
    (s.run.mode = .fault → ∃ c, s.run.first = some c ∧ s.run.faults.has c = true) ∧
    (s.run.drain ≠ none → s.run.mode = .stopping)

/-- In CONFIGURE and FAULT no pulse is ON and no latch is on (R80, R84). -/
def State.actuatorsQuiet (s : State) : Prop :=
  s.running = false → (∀ b n, (s.station b n).run.on = false) ∧ ∀ l, (s.line l).latch = false

/-- The detector is IDLE in every mode but RUN (R23). -/
def State.detectorIdle (s : State) : Prop := s.run.mode ≠ .run → s.mkd.state = .idle

/-- The detector is IDLE in every mode but RUN, and the queue is empty in CONFIGURE (R23, R60). -/
def State.quietOutsideRun (s : State) : Prop := s.detectorIdle ∧ (s.run.mode = .configure → s.iq.items = [])

/-- Each reference count is the number of queued items that carry the bank (R105). -/
def State.countsExact (s : State) : Prop :=
  ∀ b, (s.bank b).count = s.iq.items.countP fun i => i.bank == b

/-- None of the item numbers present and of the next one is 0, and each is the successor of the one before, from the head to the
next number (R38, R39). -/
def State.numbersFollow (s : State) : Prop :=
  let nos := s.iq.items.map (·.no) ++ [s.iq.next]
  (∀ n ∈ nos, n ≠ 0#16) ∧ nos.IsChain fun a b => b = if a = 65535#16 then 1#16 else a + 1#16

/-- The turning point is a value of the count register (R4, R10). -/
def State.turningInRange (s : State) : Prop := s.lei.turning < s.lei.countModulus

/-- The parts of the position are in range, and in CONFIGURE the reach equals the position (R4, R12). -/
def State.positionSound (s : State) : Prop :=
  s.lei.cfg.s ≤ 6 ∧ s.lei.countReg < s.lei.countModulus ∧ s.lei.sub < 2 ^ s.lei.cfg.s ∧
    (s.run.mode = .configure → s.lei.reach = s.lei.position)

end Sys2Proof.Machine
end

