-- ==== Sys2Proof/Certificates/Slice0/Obligations.lean ====
section
/-! DEFINITION. The statements for the provers. A link command is sent to a link that is ready (State.linkReady) as a command
that is no repeat (State.fresh); `respond` puts its answer on the way (RespondEffect), and `serve` is the transmitter's choice
(TransmitterChoice). -/

open Sys2Proof Sys2Proof.Machine

/-! ### The step -/

/-- A step takes the command at the front of the queue and runs it on the rest. -/
def Obligations.StepRunsFrontCommand : Prop :=
  ∀ (c : Instr) (rest : List Instr) (s : State), s.pending = c :: rest → step s = exec c (s.withPending rest)

/-- The model's choice (log 3): with no command waiting and RESETN high a step is one fine tick, and a request that waits and
can be executed is executed instead. The tick takes the coming levels of the pins (log 4), moves the clock, the measured
interval, the sub-step timer and the frame in transmission, and runs each input filter with its own time: F for the encoder
(R1), 32 fine ticks for each microsecond of a sense input (R20), 320 for FLT_IN (R122), and RXD (R149). The first sample after a
reset gives each filtered level as it is, which is no event (R1, R19, R20, R37, R122). Each filtered level that changes, each byte
received and each deadline met is one event, which joins the queue, in an order that is free; of the events of a tick with a soft
reset among them, those that the order puts behind it are not taken (R136, log 7). Nothing else changes. -/
def Obligations.EmptyQueueStepIsOneFineTick : Prop :=
  ∀ s : State, s.pending = [] → s.pins.resetn = true →
    (s.canExecute = true → step s = .next (executeWaiting s)) ∧
    (s.canExecute = false → (s.samples.headD s.pins).resetn = true → ∃ t, step s = .next t ∧
      let p := s.samples.headD s.pins
      let filtered (time : Nat) (raw : Bool) (f : Filt) : Filt :=
        if f.unsampled = true then { level := raw, diff := 0 }
        else if raw = f.level then { f with diff := 0 } else if time ≤ f.diff then f else { f with diff := f.diff + 1 }
      let changes (time : Nat) (raw : Bool) (f : Filt) : Bool :=
        decide (f.unsampled = false ∧ raw ≠ f.level ∧ time ≤ f.diff)
      let a := changes s.lei.cfg.filter p.encA s.lei.encA
      let b := changes s.lei.cfg.filter p.encB s.lei.encB
      let z := changes s.lei.cfg.filter p.encZ s.lei.encZ
      let received := s.slk.rx.line.sample s.slk.rate p.rxd
      t.pins = p ∧ t.samples = s.samples.tail ∧ t.sched = s.sched ∧
      t.fine = (if s.fine + 1 < 32 then s.fine + 1 else 0) ∧
      t.partTime = (if s.fine + 1 < 32 then s.partTime else s.partTime + 1#32) ∧
      t.lei = { s.lei with
        sinceCount := min (s.lei.sinceCount + 1) 16777215, subTimer := s.lei.subTimer.map (· - 1)
        encA := filtered s.lei.cfg.filter p.encA s.lei.encA, encB := filtered s.lei.cfg.filter p.encB s.lei.encB
        encZ := if z = true ∧ p.encZ = false then { level := false, diff := 0 }
          else filtered s.lei.cfg.filter p.encZ s.lei.encZ } ∧
      (∀ i : Fin 4, t.sns[i] = { s.sns[i] with
        filt := filtered ((s.sns[i]).filterUs * 32) p.sn[i] (s.sns[i]).filt }) ∧
      t.run = { s.run with flt := filtered 320 p.fltIn s.run.flt } ∧
      t.mkd = s.mkd ∧ t.iq = s.iq ∧ t.banks = s.banks ∧ t.act = s.act ∧ t.ntq = s.ntq ∧
      t.slk = { s.slk with
        rx := { s.slk.rx with line := received.1 }
        tx := match s.slk.tx with
          | .idle => .idle
          | .sending f q role ticks => .sending f q role (ticks + 1) } ∧
      let found : List Instr :=
        (match a, b with
          | true, true => [.illegalTransition]
          | true, false => [.count .a]
          | false, true => [.count .b]
          | false, false => []) ++
        (if z = true ∧ p.encZ = true then [.indexEdge] else []) ++
        ((List.finRange 4).filter fun i =>
          changes ((s.sns[i]).filterUs * 32) p.sn[i] (s.sns[i]).filt).map .senseEdge ++
        (if changes 320 p.fltIn s.run.flt = true then [if p.fltIn = true then .fltInRelease else .fltInActivation] else []) ++
        received.2.toList.map .receiveByte ++
        (if t.lei.subTimer = some 0 ∧ t.lei.motion = .forward ∧ t.lei.valid = true ∧ t.lei.position = t.lei.reach ∧
            t.lei.sub + 1 < 2 ^ t.lei.cfg.s ∧ t.run.mode ≠ .fault then [.subStep] else []) ++
        (if ∃ since ∈ t.lei.standstill, t.lei.cfg.standstillMs * 1000 ≤ (t.partTime - since).toNat then
          [.standstillWatchExpiry] else []) ++
        (stationPlaces.filter fun n => decide ((t.station n.1 n.2).run.on = true ∧
          ∃ d ∈ (t.station n.1 n.2).run.maxOn, atOrBeyond t.partTime d = true)).map
            (fun n => .maxOnDeadlineExpiry n.1 n.2) ++
        (stationPlaces.filter fun n => decide ((t.station n.1 n.2).run.on = true ∧
          (t.station n.1 n.2).run.endKind = .time ∧
          atOrBeyond t.partTime (t.station n.1 n.2).run.endTarget = true)).map (fun n => .timePulseEnd n.1 n.2) ++
        (if t.run.mode = .stopping ∧ ∃ d ∈ t.run.drain, atOrBeyond t.partTime d = true then [.drainDeadlineExpiry] else []) ++
        (if t.slk.rx.phase ≠ .hunt ∧ t.slk.rx.line.quiet t.sched.gapFirst = true ∧
            ∃ since ∈ t.slk.rx.gapFrom, 2000 ≤ (t.partTime - since).toNat then [.gapWatchExpiry] else []) ++
        (if t.slk.link = .trial ∧ ∃ d ∈ t.slk.trialDeadline, atOrBeyond t.partTime d = true then
          [.trialDeadlineExpiry] else []) ++
        (match t.slk.tx with
          | .idle => []
          | .sending f q role ticks =>
            if 10 * (f.payload.length + 6) ≤ bitsIn q ticks then
              [match role with
                | .plain => .transmitEnd
                | .rateChange _ => .linkRateChange
                | .partReset => .softReset]
            else [])
      (.softReset ∉ found → t.pending.Perm found) ∧
      (.softReset ∈ found → ∃ before after, (before ++ .softReset :: after).Perm found ∧ t.pending = before ++ [.softReset]))

/-- Every command answers a next state in every state, and, the detector being IDLE outside RUN, touches neither the queue of
commands, nor the inputs to come, nor the free orders. -/
def Obligations.EveryCommandHasANextState : Prop :=
  ∀ (c : Instr) (s : State), ∃ t, exec c s = .next t ∧
    (s.detectorIdle → t.pending = s.pending ∧ t.samples = s.samples ∧ t.sched = s.sched)

/-- R1, R20 and R122 at one filter: a raw level that keeps differing is taken at the first sample at which it has differed
for the filter time, at no earlier one, and a sample that agrees restarts the count; the first sample after a reset is taken
without filtering, and taking it is no change. -/
def Obligations.FilterTakesALevelThatHasLasted : Prop :=
  (∀ (time : Nat) (raw : Bool) (f : Filt), f.unsampled = false → raw ≠ f.level → f.diff ≤ time → ∀ k, k ≤ time - f.diff →
    let g := (fun h : Filt => (h.sample time raw).1)^[k] f
    g.level = f.level ∧ (g.sample time raw).2 = decide (k = time - f.diff)) ∧
  (∀ (time : Nat) (raw : Bool) (f : Filt), f.unsampled = false → raw = f.level →
    f.sample time raw = ({ level := f.level, diff := 0 }, false)) ∧
  ∀ (time : Nat) (raw : Bool) (f : Filt), f.unsampled = true → f.sample time raw = ({ level := raw, diff := 0 }, false)

/-! ### Resets -/

/-- Every reset gives every block its reset values, and the N_MODE of the reset, number 0, is the first frame sent:
POWER_ON_RESET and PIN_RESET at rate code 0, SOFT_RESET, at the end of the PART_RESET response, with the rate code kept and the
mode interrupted as the previous mode (R19, R37, R61, R89, R102, R120, R121, R135, R136, R148, R149, R167). While RESETN is low
the part is held in that state before any notice: a fine tick at which RESETN is low leaves it there, OUT0 to OUT15 low, TXD
high and RXD not looked at, whatever was under way; no command but a reset acts; and the tick at which RESETN is high again
brings PIN_RESET, with which the part starts (R135, R167). The model's choices: that each of the three resets is taken whole in
one step, RESETN standing high after it (log 5, log 19), that a tick takes RESETN unfiltered and that the start after a low
level is the event PIN_RESET of the next step (log 4, log 19), and that TRANSMIT_END of the PART_RESET response is the same
event as SOFT_RESET (log 15), and what each filter reads as before its first sample, which gives its level (log 2). What else the
spec does not give at reset is in log 1 and log 21 and is no part of this. -/
def Obligations.ResetsGiveTheResetState : Prop :=
  (∀ s : State,
    (∃ t, exec .powerOnReset s = .next t ∧ t.inputsAtReset ∧ t.coreAtReset ∧ t.linkAtReset 0 .configure .powerOn ∧
      t.pins = { s.pins with resetn := true }) ∧
    (∃ t, exec .pinReset s = .next t ∧ t.inputsAtReset ∧ t.coreAtReset ∧ t.linkAtReset 0 .configure .pin ∧
      t.pins = { s.pins with resetn := true })) ∧
  (∀ (s : State) (f : Frame) (q : Fin 6) (k : Nat), s.pins.resetn = true → s.slk.tx = .sending f q .partReset k →
    (∃ t, exec .softReset s = .next t ∧ t.inputsAtReset ∧ t.coreAtReset ∧
      t.linkAtReset s.slk.rate s.run.mode .soft ∧ t.pins = s.pins) ∧
    exec .transmitEnd s = exec .softReset s) ∧
  (∀ s : State, s.pending = [] → (s.pins.resetn = false ∨ s.canExecute = false) →
    let p := s.samples.headD s.pins
    (p.resetn = false → ∃ t, step s = .next t ∧ t.inReset ∧ t.pins = p ∧ t.samples = s.samples.tail ∧ t.pending = []) ∧
    (s.pins.resetn = false → p.resetn = true →
      ∃ t, step s = .next t ∧ t.inReset ∧ t.pins = p ∧ t.samples = s.samples.tail ∧ t.pending = [.pinReset])) ∧
  (∀ (c : Instr) (s : State), s.pins.resetn = false → c ≠ .powerOnReset → c ≠ .pinReset → exec c s = .next s) ∧
  (∀ s : State, s.pins.resetn = false → s.txd = true) ∧
  ∀ s t : State, s.detectorIdle → (s.pins.resetn = false → s.inReset) → step s = .next t →
    t.pins.resetn = false → t.inReset

/-! ### The encoder -/

/-- Tables 10 and 11: for each change of one filtered level, given by the levels after it, the direction with the invert
option off, and whether X2 and X1 count it. A change that does not count updates the quadrature state and no more. -/
def Obligations.CountDirectionFollowsTables10And11 : Prop :=
  (∀ phase a b dir x2 x1,
    (phase, a, b, dir, x2, x1) ∈
      ([(.a, true, false, .forward, true, true), (.b, true, true, .forward, false, false),
        (.a, false, true, .forward, true, false), (.b, false, false, .forward, false, false),
        (.b, false, true, .reverse, false, false), (.a, false, false, .reverse, true, false),
        (.b, true, false, .reverse, false, false), (.a, true, true, .reverse, true, true)] :
        List (Phase × Bool × Bool × Dir × Bool × Bool)) →
    ∀ c : LineCfg, c.decode phase a b =
      if c.countMode = .x4 ∨ (c.countMode = .x2 ∧ x2 = true) ∨ (c.countMode = .x1 ∧ x1 = true) then
        some (if c.invert = true then (match dir with | .forward => .reverse | .reverse => .forward) else dir)
      else none) ∧
  (∀ s : State, s.pins.resetn = true → s.countOf .a = none → exec (.count .a) s = .next (serve
    ((s.withLei { s.lei with encA := { level := !s.lei.encA.level, diff := 0 } }).withPins
      { s.pins with encA := !s.lei.encA.level }))) ∧
  ∀ s : State, s.pins.resetn = true → s.countOf .b = none → exec (.count .b) s = .next (serve
    ((s.withLei { s.lei with encB := { level := !s.lei.encB.level, diff := 0 } }).withPins
      { s.pins with encB := !s.lei.encB.level }))

/-- A count moves the position to the count boundary before or after it (R4), and the reach follows by the mode (R11, R12); a
forward count restarts the sub-step timer with the interval divided by 2^S, at least 1 fine tick, while the conditions of R7 hold,
and any other count stops it, as an entry to FAULT does (R7); the blocks then act on what LEI has become, in some order (State.blocksAct: R10, R11, R13, R26, R27, R29, R45, R68, R77, R93, R95),
and nothing outside the line's counting state, the level of the phase and the tracking core changes, in any mode. The premises
on the position and the detector hold in every reachable state (ActuatorsAndPositionKept, DetectorAndCountsKept); that the pin
of the phase shows the new level is log 5. -/
def Obligations.CountMovesPositionToTheNextBoundary : Prop :=
  ∀ (phase : Phase) (d : Dir) (s : State), s.pins.resetn = true → s.positionSound → s.detectorIdle →
    s.countOf phase = some d →
    let u := match phase with
      | .a => (s.withLei { s.lei with encA := { level := !s.lei.encA.level, diff := 0 } }).withPins
          { s.pins with encA := !s.lei.encA.level }
      | .b => (s.withLei { s.lei with encB := { level := !s.lei.encB.level, diff := 0 } }).withPins
          { s.pins with encB := !s.lei.encB.level }
    ∃ (l : Lei) (t : State), exec (.count phase) s = .next (serve t) ∧ u.blocksAct (decide (d = .reverse)) l t ∧
      l.sub = 0 ∧
      l.position = (match d with
        | .forward => s.lei.position + BitVec.ofNat 32 (2 ^ s.lei.cfg.s - s.lei.sub)
        | .reverse => s.lei.position - BitVec.ofNat 32 (2 ^ s.lei.cfg.s + s.lei.sub)) ∧
      (s.run.mode = .configure → l.reach = l.position) ∧ (s.run.mode = .fault → l.reach = s.lei.reach) ∧
      (s.running = true → l.reach = if atOrBeyond l.position s.lei.reach then l.position else s.lei.reach) ∧
      l.encA = u.lei.encA ∧ l.encB = u.lei.encB ∧ l.encZ = s.lei.encZ ∧
      l.subTimer = (if d = .forward ∧ l.motion = .forward ∧ l.valid = true ∧ l.position = l.reach ∧
          l.sub + 1 < 2 ^ s.lei.cfg.s ∧ s.run.mode ≠ .fault then
        some (max 1 (l.interval / 2 ^ s.lei.cfg.s)) else none) ∧
      (t.run.mode ≠ .fault → t.lei.subTimer = l.subTimer) ∧ (t.run.mode = .fault → t.lei.subTimer = none) ∧
      t.lei = { l with reach := t.lei.reach, subTimer := t.lei.subTimer } ∧
      (t.run.mode = .configure → t.lei.reach = t.lei.position) ∧
      (t.run.mode ≠ .configure → t.lei.reach = l.reach) ∧
      (t.withLei s.lei).fixed = (u.withLei s.lei).fixed

/-- A count in the direction of the one before is a measurement, any other begins a new same-direction run (R6); the index
counter and its reference flag follow (R14), and the standstill watch restarts (R9). -/
def Obligations.CountMeasuresTheInterval : Prop :=
  ∀ (phase : Phase) (d : Dir) (s : State), s.pins.resetn = true → s.detectorIdle → s.countOf phase = some d →
    ∃ t, exec (.count phase) s = .next t ∧ t.lei.sinceCount = 0 ∧ t.lei.standstill = some s.partTime ∧
      t.lei.lastDir = some d ∧ t.lei.cfg = s.lei.cfg ∧
      (∀ r, s.lei.sameDir = some r → r.dir = d →
        t.lei.interval = min s.lei.sinceCount 16777215 ∧ t.lei.valid = (s.lei.valid || decide (1 ≤ r.measured)) ∧
          t.lei.sameDir = some { dir := d, measured := min (r.measured + 1) 2 }) ∧
      ((∀ r, s.lei.sameDir = some r → r.dir ≠ d) →
        t.lei.interval = s.lei.interval ∧ t.lei.valid = false ∧ t.lei.sameDir = some { dir := d, measured := 0 }) ∧
      (s.lei.cfg.perIndex = 0 → t.lei.indexCount = s.lei.indexCount ∧ t.lei.indexRef = s.lei.indexRef) ∧
      (s.lei.cfg.perIndex ≠ 0 → d = .forward →
        t.lei.indexCount = min (s.lei.indexCount + 1) 131071 ∧
          t.lei.indexRef = (s.lei.indexRef && !decide (s.lei.lastDir = some .reverse))) ∧
      (s.lei.cfg.perIndex ≠ 0 → d = .reverse → t.lei.indexCount = s.lei.indexCount ∧ t.lei.indexRef = false)

/-- The motion state and its turning point, by the excursion that the count gives, and N_MOTION at a change of it: outside RUN
and STOPPING that notice is all that the other blocks do (R10, Table 51); within them it is the first task of State.blocksAct
(CountMovesPositionToTheNextBoundary). -/
def Obligations.CountTracksTheMotionState : Prop :=
  ∀ (phase : Phase) (d : Dir) (s : State), s.pins.resetn = true → s.detectorIdle → s.countOf phase = some d →
    ∃ t, exec (.count phase) s = .next t ∧
      let e := ({ s.lei with countReg := t.lei.countReg } : Lei).excursion
      t.lei.countReg = (match d with
        | .forward => (s.lei.countReg + 1) % s.lei.countModulus
        | .reverse => (s.lei.countReg + s.lei.countModulus - 1) % s.lei.countModulus) ∧
      t.lei.motion = (match s.lei.motion, d with
        | .forward, .reverse => if e < -(s.lei.cfg.revThreshold : Int) then .reverse else .forward
        | .reverse, .forward => if (s.lei.cfg.revThreshold : Int) < e then .forward else .reverse
        | .halted, _ =>
          if (s.lei.cfg.revThreshold : Int) < e then .forward
          else if e < -(s.lei.cfg.revThreshold : Int) then .reverse else .halted
        | m, _ => m) ∧
      t.lei.turning =
        (if t.lei.motion ≠ s.lei.motion ∨ (s.lei.motion = .forward ∧ d = .forward ∧ 0 < e) ∨
            (s.lei.motion = .reverse ∧ d = .reverse ∧ e < 0) then t.lei.countReg else s.lei.turning) ∧
      (s.running = false →
        let u := (s.withLei t.lei).withPins t.pins
        t = serve (if t.lei.motion = s.lei.motion then u
          else u.offer (.motion t.lei.motion s.lei.motion t.lei.position t.lei.reach)))

/-- A reverse count behind the reach raises REVERSE_LIMIT when the reach is at or beyond the position plus the limit, and
otherwise changes neither the mode nor the faults, in RUN and in STOPPING, where a drain that ends at the same count leaves the
mode CONFIGURE (R13, R127, R130). The test is made in RUN and STOPPING only. -/
def Obligations.ReverseLimitIsTestedAtReverseCounts : Prop :=
  (∀ (phase : Phase) (s : State), s.pins.resetn = true → s.positionSound → s.running = true → s.detectorIdle →
    s.countOf phase = some .reverse →
    let p := s.lei.position - BitVec.ofNat 32 (2 ^ s.lei.cfg.s + s.lei.sub)
    atOrBeyond p s.lei.reach = false →
    ∃ t, exec (.count phase) s = .next t ∧
      ((s.run.mode = .stopping ∧ t.run.mode = .configure) ∨
        ((atOrBeyond s.lei.reach (p + BitVec.ofNat 32 (s.lei.cfg.revLimit * 2 ^ s.lei.cfg.s)) = true →
          t.run.mode = .fault ∧ t.run.first = some .reverseLimit ∧
            t.run.faults = { encoder := false, reverseLimit := true, indexSlip := false, external := false } ∧
            t.lei.reach = s.lei.reach) ∧
        (atOrBeyond s.lei.reach (p + BitVec.ofNat 32 (s.lei.cfg.revLimit * 2 ^ s.lei.cfg.s)) = false →
          t.run = s.run)))) ∧
  ∀ (note : Option NoticeBody) (s : State),
    (s.running = false → Task.reverseLimit.run note s = s) ∧
    (s.running = true → Task.reverseLimit.run note s =
      if atOrBeyond s.lei.reach (s.lei.position + BitVec.ofNat 32 (s.lei.cfg.revLimit * 2 ^ s.lei.cfg.s)) = true then
        raiseCause .reverseLimit s else s) ∧
    Task.motion.run note s = (match note with
      | none => s
      | some n => s.offer n)

/-- An illegal transition takes the new levels, moves nothing, ends the same-direction run, and raises ENCODER in RUN and
STOPPING or queues N_ENCERR in CONFIGURE and FAULT (R3, R130). -/
def Obligations.IllegalTransitionEndsTheRunOrReports : Prop :=
  ∀ s : State, s.pins.resetn = true →
    let u := (s.withLei { s.lei with
        encA := { level := !s.lei.encA.level, diff := 0 }, encB := { level := !s.lei.encB.level, diff := 0 }
        valid := false, sameDir := none, subTimer := none }).withPins
      { s.pins with encA := !s.lei.encA.level, encB := !s.lei.encB.level }
    (s.running = false → exec .illegalTransition s = .next (serve (u.offer
      (.encErr s.lei.position s.lei.encA.level s.lei.encB.level (!s.lei.encA.level) (!s.lei.encB.level))))) ∧
    (s.running = true → ∃ v, u.faultEntered .encoder v ∧
      exec .illegalTransition s = .next (serve (v.offer
        (.fault .encoder v.run.first v.run.faults s.run.mode s.lei.position s.lei.reach s.lei.motion s.iq.items.length
          s.headNo))))

/-- INDEX_EDGE: ignored with the check off or after a reverse count; the first edge with the flag clear sets it; a later one is
compared, gives N_INDEX beyond the slack, and with the option set raises INDEX_SLIP in RUN and STOPPING, N_INDEX then saying so
(R14, R15, R130). In a state that already holds the filtered level of ENC_Z high the row is an edge after a fall not shown, the
model's choice (log 16); that N_INDEX is offered before N_FAULT is the order in which R15 and R130 tell them (log 20). -/
def Obligations.IndexEdgeComparesAndRestarts : Prop :=
  ∀ s : State, s.pins.resetn = true →
    let u := (s.withLei { s.lei with encZ := { level := true, diff := 0 } }).withPins { s.pins with encZ := true }
    let w := u.withLei { u.lei with indexRef := true, indexCount := 0 }
    let taken := s.lei.cfg.perIndex ≠ 0 ∧ s.lei.lastDir = some .forward
    let within := s.lei.indexCount ≤ s.lei.cfg.perIndex + s.lei.cfg.slack ∧
      s.lei.cfg.perIndex ≤ s.lei.indexCount + s.lei.cfg.slack
    let fault := s.lei.cfg.indexFault = true ∧ s.running = true
    let reported (raised : Bool) : State :=
      w.offer (.index s.lei.cfg.perIndex s.lei.indexCount s.lei.position raised)
    (¬ taken → exec .indexEdge s = .next (serve u)) ∧
    (taken → (s.lei.indexRef = false ∨ within) → exec .indexEdge s = .next (serve w)) ∧
    (taken → s.lei.indexRef = true → ¬ within → ¬ fault → exec .indexEdge s = .next (serve (reported false))) ∧
    (taken → s.lei.indexRef = true → ¬ within → fault →
      ∃ v, (reported true).faultEntered .indexSlip v ∧
        exec .indexEdge s = .next (serve (v.offer
          (.fault .indexSlip v.run.first v.run.faults s.run.mode s.lei.position s.lei.reach s.lei.motion s.iq.items.length
            s.headNo))))

/-- A sub-step adds 1 lu, the reach follows at the frontier, the timer starts anew while the conditions hold (R7, R11), and the
blocks act on the new reach (State.blocksAct). The event changes nothing when a condition does not hold (log 5). -/
def Obligations.SubStepAddsOneLineUnit : Prop :=
  ∀ s : State, s.pins.resetn = true → s.positionSound → s.detectorIdle →
    (s.lei.subTimer = some 0 → s.lei.motion = .forward → s.lei.valid = true → s.lei.position = s.lei.reach →
      s.lei.sub + 1 < 2 ^ s.lei.cfg.s → s.run.mode ≠ .fault →
      ∃ t, exec .subStep s = .next (serve t) ∧
        s.blocksAct false { s.lei with
          sub := s.lei.sub + 1, reach := s.lei.position + 1#32
          subTimer := if s.lei.sub + 2 < 2 ^ s.lei.cfg.s then some (max 1 (s.lei.interval / 2 ^ s.lei.cfg.s)) else none } t ∧
        t.lei.sub = s.lei.sub + 1 ∧ t.lei.countReg = s.lei.countReg ∧
        t.lei.position = s.lei.position + 1#32 ∧ t.lei.reach = t.lei.position ∧
        t.lei.subTimer =
          (if s.lei.sub + 2 < 2 ^ s.lei.cfg.s then some (max 1 (s.lei.interval / 2 ^ s.lei.cfg.s)) else none) ∧
        t.lei = { s.lei with sub := t.lei.sub, reach := t.lei.reach, subTimer := t.lei.subTimer } ∧
        (t.withLei s.lei).fixed = s.fixed) ∧
    ((s.lei.subTimer ≠ some 0 ∨ s.lei.motion ≠ .forward ∨ s.lei.valid = false ∨ s.lei.position ≠ s.lei.reach ∨
      2 ^ s.lei.cfg.s ≤ s.lei.sub + 1 ∨ s.run.mode = .fault) → exec .subStep s = .next s)

/-- The standstill watch expires: interval no longer valid, HALTED with the turning point at the present count, and the watch
stays expired; N_MOTION follows for a line that was not HALTED, and the blocks act on the change (R9, State.blocksAct), which
outside RUN and STOPPING is that notice and no more. The position does not move. Before its time the event changes nothing (log
5). -/
def Obligations.StandstillHaltsTheLine : Prop :=
  ∀ s : State, s.pins.resetn = true → s.detectorIdle →
    (∀ since, s.lei.standstill = some since → s.lei.cfg.standstillMs * 1000 ≤ (s.partTime - since).toNat →
      let l := { s.lei with
        valid := false, sameDir := none, subTimer := none, standstill := none, motion := .halted
        turning := if s.lei.motion = .halted then s.lei.turning else s.lei.countReg }
      ∃ t, exec .standstillWatchExpiry s = .next (serve t) ∧ s.blocksAct false l t ∧
        t.lei = { l with reach := t.lei.reach } ∧
        (t.run.mode = s.run.mode → t.lei.reach = s.lei.reach) ∧ (t.withLei s.lei).fixed = s.fixed ∧
        (s.running = false → t = if s.lei.motion = .halted then s.withLei l
          else (s.withLei l).offer (.motion .halted s.lei.motion s.lei.position s.lei.reach))) ∧
    ((s.lei.standstill = none ∨
      ∃ since, s.lei.standstill = some since ∧ (s.partTime - since).toNat < s.lei.cfg.standstillMs * 1000) →
      exec .standstillWatchExpiry s = .next s)

/-! ### The sense inputs, FLT_IN and the deadlines -/

/-- SENSE_EDGE changes the filtered level of one input and no setting; the detector and every window take the edge, in some
order (log 6), and outside RUN and STOPPING it reaches no user (R20, R23, R94, R99). What each user does with it is in
CandidatesAreJudgedAndMissesCounted and WindowOpensAndResolves; that the pin shows the new level is log 5. -/
def Obligations.SenseEdgeChangesOneInput : Prop :=
  ∀ (i : Fin 4) (s : State), s.pins.resetn = true → s.detectorIdle →
    let u := (s.withSns (s.sns.set i { s.sns[i] with filt := { level := !(s.sns[i]).filt.level, diff := 0 } })).withPins
      { s.pins with sn := s.pins.sn.set i (!(s.sns[i]).filt.level) }
    (∃ t, exec (.senseEdge i) s = .next t ∧ t.sns = u.sns ∧ t.pins = u.pins ∧ t.fixed = u.fixed ∧
      (t.senseActive i = !s.senseActive i) ∧ (∀ j, j ≠ i → t.senseActive j = s.senseActive j) ∧
      ∃ users : List EdgeUser, users.Perm (.detector :: windowPlaces.map fun p => .window p.1 p.2) ∧
        t = serve (users.foldl (fun v x => x.take i (!s.senseActive i) v) u)) ∧
    (s.running = false → exec (.senseEdge i) s = .next (serve u))

/-- A mark edge and a level loss at the detector, no window being open: at the frontier a mark edge opens a candidate at the
reach; short of it, it is a RETRACE stray; a level loss ends a candidate as SHORT; a mark edge with a candidate is ignored
(R24, R25, R26). A minimum mark length of 0, and a loss that releases a deferred miss, are in
CandidatesAreJudgedAndMissesCounted; that the pin of the input shows the new level is log 5. -/
def Obligations.MarkEdgeOpensACandidate : Prop :=
  ∀ (s : State) (i : Fin 4), s.pins.resetn = true → s.mkd.state = .search ∨ s.mkd.state = .track ∨ s.mkd.state = .coast →
    s.mkd.cfg.input = i → s.mkd.cfg.minLength ≠ 0 → (∀ b w, (s.window b w).run.opened = false) →
    let u := (s.withSns (s.sns.set i { s.sns[i] with filt := { level := !(s.sns[i]).filt.level, diff := 0 } })).withPins
      { s.pins with sn := s.pins.sn.set i (!(s.sns[i]).filt.level) }
    let mark := (s.mkd.cfg.edge = .rising ∧ s.senseActive i = false) ∨ (s.mkd.cfg.edge = .falling ∧ s.senseActive i = true)
    (mark → s.mkd.candidate = none → s.lei.position = s.lei.reach →
      exec (.senseEdge i) s = .next (serve (u.withMkd { s.mkd with candidate := some s.lei.reach }))) ∧
    (mark → s.mkd.candidate = none → s.lei.position ≠ s.lei.reach →
      exec (.senseEdge i) s = .next (serve (u.offer (.stray .retrace s.lei.position s.lei.reach s.mkd.state 0#32)))) ∧
    (mark → s.mkd.candidate ≠ none → exec (.senseEdge i) s = .next (serve u)) ∧
    (¬ mark → s.mkd.candidate = none → exec (.senseEdge i) s = .next (serve u)) ∧
    (∀ lead, ¬ mark → s.mkd.candidate = some lead → s.mkd.deferred = false →
      exec (.senseEdge i) s = .next (serve ((u.offer (.stray .short lead s.lei.reach s.mkd.state 0#32)).withMkd
        { s.mkd with candidate := none })))

/-- FLT_IN: an activation raises EXTERNAL in RUN and STOPPING, adds it to the fault set in FAULT, and does neither in
CONFIGURE; a release lifts the hold and raises nothing (R122, R130, R131). -/
def Obligations.FltInActsByTheMode : Prop :=
  (∀ s : State, s.pins.resetn = true → s.run.flt.level = true →
    let u := (s.withRun { s.run with flt := { level := false, diff := 0 } }).withPins { s.pins with fltIn := false }
    (s.run.mode = .configure → exec .fltInActivation s = .next (serve u)) ∧
    (s.run.mode = .fault → exec .fltInActivation s = .next (serve
      ((u.withRun { u.run with faults := { u.run.faults with external := true } }).offer
        (.fault .external s.run.first { s.run.faults with external := true } .fault s.lei.position s.lei.reach s.lei.motion
          s.iq.items.length s.headNo)))) ∧
    (s.running = true → ∃ v, u.faultEntered .external v ∧
      exec .fltInActivation s = .next (serve (v.offer
        (.fault .external v.run.first v.run.faults s.run.mode s.lei.position s.lei.reach s.lei.motion s.iq.items.length
          s.headNo))))) ∧
  (∀ s : State, s.pins.resetn = true → s.run.flt.level = false → exec .fltInRelease s = .next (serve
    ((s.withRun { s.run with flt := { level := true, diff := 0 } }).withPins { s.pins with fltIn := true })))

/-- The max-on deadline of a pulse that is ON is reached: the pulse ends with cause DEADLINE, its station leaves every demand
set, and nothing else changes (R78). -/
def Obligations.MaxOnDeadlineEndsThePulse : Prop :=
  ∀ (s : State) (b : Fin 2) (n : Fin 16) (d : Time), s.pins.resetn = true → (s.station b n).run.on = true →
    (s.station b n).run.maxOn = some d → atOrBeyond s.partTime d = true →
    let t := s.modStationRun b n fun r => { r with on := false, maxOn := none, lastEnd := .deadline }
    exec (.maxOnDeadlineExpiry b n) s = .next (serve t) ∧
      ∀ l, (serve t).demandSet l = (s.demandSet l).filter fun p => p != (b, n)

/-- R79. Part time reaches the end target of a TIME pulse that is ON: the pulse ends with cause TARGET, its station leaves the
demand set of its pulse line, and nothing else changes, whatever the reach and the motion state. -/
def Obligations.TimePulseEndsAtItsEndTarget : Prop :=
  ∀ (s : State) (b : Fin 2) (n : Fin 16), s.pins.resetn = true → (s.station b n).run.on = true →
    (s.station b n).run.endKind = .time →
    atOrBeyond s.partTime (s.station b n).run.endTarget = true →
    let t := s.modStationRun b n fun r => { r with on := false, maxOn := none, lastEnd := .target }
    exec (.timePulseEnd b n) s = .next (serve t) ∧
      ∀ l, (serve t).demandSet l = (s.demandSet l).filter fun p => p != (b, n)

/-- The drain deadline is reached in STOPPING: a flush, with N_BANK ACTIVATE for an ARMED bank, and N_MODE with reason
DRAIN_TIMEOUT and the items discarded (R118, R128, R133); that N_BANK ACTIVATE carries the reach already set to the position is
log 23. -/
def Obligations.DrainDeadlineFlushesTheQueue : Prop :=
  ∀ (s : State) (d : Time), s.pins.resetn = true → s.banksLegal → s.run.mode = .stopping → s.run.drain = some d →
    atOrBeyond s.partTime d = true →
    ∃ v, s.flushed v ∧ v.run = { s.run with mode := .configure, drain := none } ∧
      exec .drainDeadlineExpiry s = .next (serve (v.offer
        (.mode .configure .stopping .drainTimeout s.iq.items.length s.headNo s.tailNo s.lei.position s.lei.position
          v.activeBank none)))

/-! ### The receiver -/

/-- RECEIVE_BYTE in each receiver state, with no command waiting and nothing for the transmitter to take (R152, R153, Table 65),
at the rate of the byte in reception or, for a byte given with none in reception (log 14), the present one; the byte receiver
then waits for RXD to be high (R149). A good frame is dispatched; in TRIAL the first whose SYNC was received at the present rate
ends the trial before that, the new rate staying, and one whose SYNC was received at another rate does not (R153, R163); that the
recorded old rate is then cleared no rule says (log 17). And the bits of RXD (R149, Table 64): no
start bit is looked for until the line is high; a low level is then a start bit at the present rate; the eight data bits and the
stop bit are sampled, and the byte is the data bits as sampled, the least significant first, whatever the stop bit, so that a
line held low gives 00H once; and a byte sent with its start bit, data bits and stop bit is received as itself. That a bit is
sampled in its middle, and that the byte is taken with its stop bit, are the model's choices (log 14). -/
def Obligations.ReceiverTakesEachByte : Prop :=
  (∀ (s : State) (v : Byte), s.pins.resetn = true → s.slk.requests = [] →
    (s.slk.tx = .idle → s.slk.responses = [] ∧ s.ntq.queue = []) →
    let x := { s.slk.rx with line := RxLine.waitHigh }
    let rate := match s.slk.rx.line with
      | .waitHigh => s.slk.rate
      | .ready => s.slk.rate
      | .receiving rate _ _ => rate
      | .sampled rate => rate
    (x.phase = .hunt → v = 0x5A#8 → exec (.receiveByte v) s = .next (s.withSlk { s.slk with rx := { x with
      phase := .length, crc := 0xFFFF#16, syncRate := rate, gapFrom := some s.partTime } })) ∧
    (x.phase = .hunt → v ≠ 0x5A#8 → exec (.receiveByte v) s = .next (s.withSlk { s.slk with rx := x })) ∧
    (x.phase = .length → 2 ≤ v.toNat → v.toNat ≤ 126 →
      exec (.receiveByte v) s = .next (s.withSlk { s.slk with rx := { x with
        phase := .body, crc := crcByte x.crc v, left := v.toNat, body := [], gapFrom := some s.partTime } })) ∧
    (x.phase = .length → (v.toNat < 2 ∨ 126 < v.toNat) →
      exec (.receiveByte v) s = .next (s.withSlk { s.slk with
        rx := { x with phase := .hunt, gapFrom := none }
        lengthErrors := min (s.slk.lengthErrors + 1) 65535 })) ∧
    (x.phase = .body → exec (.receiveByte v) s = .next (s.withSlk { s.slk with rx := { x with
      phase := if x.left ≤ 1 then .check else .body
      crc := crcByte x.crc v, left := x.left - 1, body := x.body ++ [v], checkHigh := none
      gapFrom := some s.partTime } })) ∧
    (x.phase = .check → x.checkHigh = none → exec (.receiveByte v) s = .next (s.withSlk { s.slk with rx := { x with
      checkHigh := some v, gapFrom := some s.partTime } })) ∧
    (∀ high, x.phase = .check → x.checkHigh = some high → high ++ v ≠ x.crc →
      exec (.receiveByte v) s = .next (s.withSlk { s.slk with
        rx := { x with phase := .hunt, gapFrom := none }
        crcErrors := min (s.slk.crcErrors + 1) 65535 })) ∧
    (∀ high seq kind payload, x.phase = .check → x.checkHigh = some high → high ++ v = x.crc → x.body = seq :: kind :: payload →
      let taken := { s.slk with rx := { x with phase := .hunt, gapFrom := none } }
      let trialOver := { taken with link := .steady, trialDeadline := none, oldRate := none }
      let dispatched (l : Slk) := exec (.receiveByte v) s =
        .next (finishLink (dispatch { seq := seq, kind := kind, payload := payload } (s.withSlk l)))
      (s.slk.link = .trial → x.syncRate = s.slk.rate → dispatched trialOver) ∧
      (s.slk.link = .trial → x.syncRate ≠ s.slk.rate → dispatched taken) ∧
      (s.slk.link = .steady → dispatched taken))) ∧
  (let speed (rate : Fin 6) : Nat := match rate with
    | 0 => 115200
    | 1 => 230400
    | 2 => 460800
    | 3 => 921600
    | 4 => 1000000
    | 5 => 2000000
  (∀ rate : Fin 6,
    RxLine.waitHigh.sample rate false = (.waitHigh, none) ∧ RxLine.waitHigh.sample rate true = (.ready, none) ∧
    RxLine.ready.sample rate true = (.ready, none) ∧ RxLine.ready.sample rate false = (.receiving rate 0 [], none)) ∧
  (∀ (now rate : Fin 6) (rxd : Bool) (k : Nat) (bits : List Bool),
    let middle := (2 * bits.length + 3) * 32000000 / (2 * speed rate)
    (k + 1 < middle → (RxLine.receiving rate k bits).sample now rxd = (.receiving rate (k + 1) bits, none)) ∧
    (middle ≤ k + 1 → bits.length < 8 →
      (RxLine.receiving rate k bits).sample now rxd = (.receiving rate (k + 1) (bits ++ [rxd]), none)) ∧
    (middle ≤ k + 1 → bits.length = 8 → ∃ v : Byte, (RxLine.receiving rate k bits).sample now rxd = (.sampled rate, some v) ∧
      ∀ j : Fin 8, v.getLsbD j = bits.getD j false)) ∧
  ∀ (rate : Fin 6) (v : Byte),
    let wave (k : Nat) : Bool :=
      let bit := k * speed rate / 32000000
      if bit = 0 then false else if bit ≤ 8 then v.getLsbD (bit - 1) else true
    let stop := 19 * 32000000 / (2 * speed rate)
    ((List.range stop).foldl (fun x k => (x.sample rate (wave k)).1) RxLine.ready).sample rate (wave stop) =
      (.sampled rate, some v))

/-- Every frame that Table 69 lays out, sent byte by byte to a receiver in HUNT, reaches dispatch with the SEQ, KIND and payload
it was sent with: no bit of it is dropped, and its check bytes pass (R150, R153, R156); in TRIAL, with its SYNC received at the
present rate, it ends the trial first (R163), the recorded old rate being cleared, which no rule says (log 17). The bytes of a frame, and the check
value as R150 computes it, bit by bit. The level of TXD: high while the transmitter is idle and while RESETN is low, and else
the bits of the frame at the rate it began with, byte after byte with no pause, each with a low start bit, eight data bits, the
least significant first, and a high stop bit (R149, R161, R167, Table 64). -/
def Obligations.FrameReceivedIsFrameSent : Prop :=
  (∀ (s : State) (r : Request), r.payload.length ≤ 124 → s.pins.resetn = true → s.slk.requests = [] →
    (s.slk.tx = .idle → s.slk.responses = [] ∧ s.ntq.queue = []) → s.slk.rx.phase = .hunt →
    let sync := match s.slk.rx.line with
      | .waitHigh => s.slk.rate
      | .ready => s.slk.rate
      | .receiving rate _ _ => rate
      | .sampled rate => rate
    let l := if s.slk.link = .trial ∧ sync = s.slk.rate then
        { s.slk with link := .steady, trialDeadline := none, oldRate := none } else s.slk
    ∃ x : Rx, x.phase = .hunt ∧
      execAll (({ seq := r.seq, kind := r.kind, payload := r.payload } : Frame).bytes.map .receiveByte) s =
        .next (finishLink (dispatch r (s.withSlk { l with rx := x })))) ∧
  (∀ f : Frame,
    let covered := BitVec.ofNat 8 (f.payload.length + 2) :: f.seq :: f.kind :: f.payload
    let check := covered.foldl crcByte 0xFFFF#16
    f.bytes = [0x5A#8] ++ covered ++ [check.extractLsb' 8 8, check.extractLsb' 0 8]) ∧
  (∀ (c : BitVec 16) (b : Byte),
    crcByte c b = (fun x : BitVec 16 => if x.getLsbD 15 = true then (x <<< 1) ^^^ 0x1021#16 else x <<< 1)^[8]
      (c ^^^ (b.zeroExtend 16 <<< 8))) ∧
  ∀ s : State,
    (s.slk.tx = .idle → s.txd = true) ∧ (s.pins.resetn = false → s.txd = true) ∧
    ∀ (f : Frame) (rate : Fin 6) (role : Role) (ticks : Nat), s.pins.resetn = true → s.slk.tx = .sending f rate role ticks →
      let speed : Nat := match rate with
        | 0 => 115200
        | 1 => 230400
        | 2 => 460800
        | 3 => 921600
        | 4 => 1000000
        | 5 => 2000000
      let bit := ticks * speed / 32000000
      (∀ before v after, f.bytes = before ++ v :: after → bit / 10 = before.length →
        s.txd = if bit % 10 = 0 then false else if bit % 10 ≤ 8 then v.getLsbD (bit % 10 - 1) else true) ∧
      (f.bytes.length ≤ bit / 10 → s.txd = true)

/-! ### The transmitter -/

/-- What an idle transmitter takes, and begins to send with its first bit: the oldest response; else, no soft reset pending, the
earliest notice of the highest class (R145, R161). A transmitter that sends takes nothing. A notice goes out with SEQ 0, its
kind code, the header of Table 76 and the content of Table 77 (R171); numbers are sent most significant byte first (R168). -/
def Obligations.TransmitterChoice : Prop :=
  (∀ s : State,
    (s.slk.tx ≠ .idle → serve s = s) ∧
    (∀ r rest, s.slk.tx = .idle → s.slk.responses = r :: rest →
      serve s = s.withSlk { s.slk with tx := .sending r.frame s.slk.rate r.role 0, responses := rest }) ∧
    (∀ before n after, s.slk.tx = .idle → s.slk.responses = [] → s.slk.pause ≠ .softReset →
      s.ntq.queue = before ++ n :: after → (∀ m ∈ before, m.cls < n.cls) → (∀ m ∈ after, m.cls ≤ n.cls) →
      serve s = (s.withNtq { s.ntq with queue := before ++ after }).withSlk
        { s.slk with tx := .sending n.frame s.slk.rate .plain 0 }) ∧
    (s.slk.tx = .idle → s.slk.responses = [] → (s.ntq.queue = [] ∨ s.slk.pause = .softReset) → serve s = s)) ∧
  (∀ (number : BitVec 16) (cls : Nat) (time : Time) (body : NoticeBody),
    ({ number := number, cls := cls, time := time, body := body } : Notice).frame =
      { seq := 0#8
        kind := match body with
          | .mark .. => 0x41#8
          | .stray .. => 0x42#8
          | .lost .. => 0x43#8
          | .item .. => 0x44#8
          | .qfull .. => 0x45#8
          | .bank .. => 0x46#8
          | .motion .. => 0x47#8
          | .index .. => 0x48#8
          | .fault .. => 0x49#8
          | .mode .. => 0x4A#8
          | .link .. => 0x4B#8
          | .encErr .. => 0x4C#8
        payload := be2 number.toNat ++ be1 cls ++ be4 time.toNat ++ body.content }) ∧
  (∀ origin item mark reach state missRun deviation notMeasured,
    (NoticeBody.mark origin item mark reach state missRun deviation notMeasured).content =
      be1 origin.code ++ be2 item.toNat ++ be4 mark.toNat ++ be4 reach.toNat ++ be1 state.code ++ be1 missRun ++
        be3 (BitVec.ofInt 24 deviation).toNat ++ be1 notMeasured.toNat) ∧
  (∀ reason lead reach state reference, (NoticeBody.stray reason lead reach state reference).content =
      be1 reason.code ++ be4 lead.toNat ++ be4 reach.toNat ++ be1 state.code ++ be4 reference.toNat) ∧
  (∀ expected limit reach last, (NoticeBody.lost expected limit reach last).content =
      be4 expected.toNat ++ be1 limit ++ be4 reach.toNat ++ be2 last.toNat) ∧
  (∀ i reach count, (NoticeBody.item i reach count).content = i.record ++ be4 reach.toNat ++ be1 count) ∧
  (∀ origin mark reach head, (NoticeBody.qfull origin mark reach head).content =
      be1 origin.code ++ be4 mark.toNat ++ be4 reach.toNat ++ be2 head.toNat) ∧
  (∀ event b state0 count0 state1 count1 first reach,
    (NoticeBody.bank event b state0 count0 state1 count1 first reach).content =
      be1 event.code ++ be1 b.val ++ be1 state0.code ++ be1 count0 ++ be1 state1.code ++ be1 count1 ++ be2 first.toNat ++
        be4 reach.toNat) ∧
  (∀ new previous position reach, (NoticeBody.motion new previous position reach).content =
      be1 new.code ++ be1 previous.code ++ be4 position.toNat ++ be4 reach.toNat) ∧
  (∀ expected measured position raised, (NoticeBody.index expected measured position raised).content =
      be2 expected ++ be3 measured ++ be4 position.toNat ++ be1 raised.toNat) ∧
  (∀ cause first faults takenIn position reach motion count head,
    (NoticeBody.fault cause first faults takenIn position reach motion count head).content =
      be1 cause.code ++ be1 (firstFaultCode first) ++ be1 faults.code ++ be1 takenIn.code ++ be4 position.toNat ++
        be4 reach.toNat ++ be1 motion.code ++ be1 count ++ be2 head.toNat) ∧
  (∀ new previous reason discarded first last position reach active kind,
    (NoticeBody.mode new previous reason discarded first last position reach active kind).content =
      be1 new.code ++ be1 previous.code ++ be1 reason.code ++ be1 discarded ++ be2 first.toNat ++ be2 last.toNat ++
        be4 position.toNat ++ be4 reach.toNat ++ be1 active.val ++
        be1 (match kind with
          | none => 0
          | some .powerOn => 1
          | some .pin => 2
          | some .soft => 3)) ∧
  (∀ tried restored, (NoticeBody.link tried restored).content = be1 0 ++ be1 tried.val ++ be1 restored.val) ∧
  (∀ position a b c d, (NoticeBody.encErr position a b c d).content =
      be4 position.toNat ++ be1 (a.toNat + 2 * b.toNat) ++ be1 (c.toNat + 2 * d.toNat)) ∧
  ∀ n : Nat, be1 n = [BitVec.ofNat 8 n] ∧ be2 n = [BitVec.ofNat 8 (n / 2 ^ 8), BitVec.ofNat 8 n] ∧
    be3 n = [BitVec.ofNat 8 (n / 2 ^ 16), BitVec.ofNat 8 (n / 2 ^ 8), BitVec.ofNat 8 n] ∧
    be4 n = [BitVec.ofNat 8 (n / 2 ^ 24), BitVec.ofNat 8 (n / 2 ^ 16), BitVec.ofNat 8 (n / 2 ^ 8), BitVec.ofNat 8 n]

/-- A frame ends: the transmitter chooses again, and the commands that wait are executed while the conditions hold, at once or
at the next idle step (log 9); at the end of the response of a taken LINK_SET the link takes the new rate, records the old one
and begins its trial of 2,000 ms, and execution resumes (R157, R161, R162). LINK_RATE_CHANGE is that end and nothing at another.
That the transmitter chooses before the waiting commands are executed, where the rules leave the order open, is the model's choice
(log 24).
That a row ends the frame whenever it is sent, TRANSMIT_END whatever its role, is the model's choice (log 15); a tick queues the
row when the last bit has left TXD (EmptyQueueStepIsOneFineTick). -/
def Obligations.FrameEndFreesTheTransmitter : Prop :=
  ∀ (s : State) (f : Frame) (q : Fin 6) (k : Nat), s.pins.resetn = true →
    let resumed (u : State) : State := if s.sched.deferExec = true then serve u else executeWaiting (serve u)
    (s.slk.tx = .sending f q .plain k →
      exec .transmitEnd s = .next (resumed (s.withSlk { s.slk with tx := .idle })) ∧
      (s.slk.requests = [] → exec .transmitEnd s = .next (serve (s.withSlk { s.slk with tx := .idle }))) ∧
      exec .linkRateChange s = .next s) ∧
    (∀ new, s.slk.tx = .sending f q (.rateChange new) k →
      let u := s.withSlk { s.slk with
        tx := .idle, rate := new, oldRate := some s.slk.rate, link := .trial
        trialDeadline := some (s.partTime + 2000000#32), pause := .running }
      exec .linkRateChange s = .next (resumed u) ∧
      (s.slk.requests = [] → exec .linkRateChange s = .next (serve u)) ∧
      exec .transmitEnd s = exec .linkRateChange s)

/-- The link's two watches. The gap watch expires 2 ms after the end of the last byte taken, no start bit having come, and
abandons the frame with a gap error; in HUNT it does not run; with a start bit at the very tick at which it falls due either
order is allowed, and State.sched.gapFirst, a free value, gives it (R154, log 7). The trial deadline brings the old rate back,
the link STEADY, and N_LINK names the rate tried and the rate restored (R163, R147); the recorded old rate is then cleared,
which no rule says (log 17). Before its time an expiry changes nothing (log 5). -/
def Obligations.LinkWatchesExpire : Prop :=
  (∀ s : State, s.pins.resetn = true →
    let x := s.slk.rx
    (∀ since, x.phase ≠ .hunt → x.gapFrom = some since → 2000 ≤ (s.partTime - since).toNat →
      (x.line = .waitHigh ∨ x.line = .ready ∨ (s.sched.gapFirst = true ∧ ∃ q bits, x.line = .receiving q 0 bits)) →
      exec .gapWatchExpiry s = .next (s.withSlk { s.slk with
        rx := { x with phase := .hunt, gapFrom := none }, gapErrors := min (s.slk.gapErrors + 1) 65535 })) ∧
    ((x.phase = .hunt ∨ (∃ q, x.line = .sampled q) ∨
        (∃ q k bits, x.line = .receiving q k bits ∧ (k ≠ 0 ∨ s.sched.gapFirst = false)) ∨
        ∃ since, x.gapFrom = some since ∧ (s.partTime - since).toNat < 2000) →
      exec .gapWatchExpiry s = .next s)) ∧
  ∀ (s : State) (d : Time) (old : Fin 6), s.pins.resetn = true → s.slk.link = .trial → s.slk.trialDeadline = some d →
    s.slk.oldRate = some old →
    (atOrBeyond s.partTime d = true →
      exec .trialDeadlineExpiry s = .next (serve ((s.withSlk { s.slk with
        rate := old, link := .steady, trialDeadline := none, oldRate := none }).offer (.link s.slk.rate old)))) ∧
    (atOrBeyond s.partTime d = false → exec .trialDeadlineExpiry s = .next s)

/-! ### Queues, cache and refusals -/

/-- The answer of an execution: it enters the response cache, joins the response queue or is taken by an idle transmitter at
once, and its frame echoes SEQ and KIND, the KIND with its highest bit set (R151, R157, R159, R160, Table 72). -/
def Obligations.RespondEffect : Prop :=
  ∀ (r : Request) (a : Answer) (s : State),
    let e : Response := { seq := r.seq, kind := r.kind, reply := a.reply, role := a.role }
    let l := { s.slk with
      cache := some { seq := r.seq, kind := r.kind, reply := a.reply }
      pause := match a.role with
        | .plain => s.slk.pause
        | .rateChange _ => .rateChange
        | .partReset => .softReset }
    (s.slk.tx ≠ .idle → respond r a s = s.withSlk { l with responses := s.slk.responses ++ [e] }) ∧
    (s.slk.tx = .idle → s.slk.responses = [] →
      respond r a s = s.withSlk { l with tx := .sending e.frame s.slk.rate a.role 0 }) ∧
    e.frame = { seq := r.seq, kind := r.kind ||| 0x80#8,
                payload := BitVec.ofNat 8 a.reply.status.code ::
                  BitVec.ofNat 8 (a.reply.repeated.toNat + 2 * a.reply.replaced.toNat + 4 * a.reply.alreadyStopping.toNat) ::
                  BitVec.ofNat 8 a.reply.detail :: a.reply.content }

/-- A repeat of the last command executed is not executed: a copy of the cached response with the REPEATED flag goes out, and
the cache and the rest of the part keep what they hold (R160). -/
def Obligations.RepeatIsAnsweredFromTheCache : Prop :=
  ∀ (i : Instr) (r : Request) (c : Cached) (s : State), requestOf i = some r → s.linkReady → s.slk.cache = some c →
    r.seq ≠ 0#8 → c.seq = r.seq → c.kind = r.kind →
    exec i s = .next (serve (s.withSlk { s.slk with
      responses := s.slk.responses ++
        [{ seq := r.seq, kind := r.kind, reply := { c.reply with repeated := true }, role := .plain }] }))

/-- Dispatch and execution. A frame that finds fewer than four requests waiting joins them at the tail; one that finds four is
answered BUSY while the response queue has room and no soft reset is pending, and dropped and counted otherwise (R156). Waiting
commands are executed one after another from the head, each once a response place is free and nothing pauses execution, and an
idle transmitter takes each response at once (R157, R161); a command performed from the queue is a repeat answered from the
cache, or is executed and answered (R158, R160). A row of a link command is one frame at dispatch (log 10); a frame that comes
as its bytes, or the end of a frame, is followed by the transmitter's choice, first by the model's choice (log 24), and
the same execution, at once or at the next idle step (log 9). -/
def Obligations.FullRequestQueueAnswersBusy : Prop :=
  (∀ (i : Instr) (r : Request) (s : State), requestOf i = some r → s.pins.resetn = true →
    let joined := s.withSlk { s.slk with requests := s.slk.requests ++ [r] }
    (s.slk.requests.length < 4 → dispatch r s = joined) ∧
    (s.slk.requests.length < 4 → s.slk.tx ≠ .idle → (s.slk.pause ≠ .running ∨ 4 ≤ s.slk.responses.length) →
      exec i s = .next joined) ∧
    (s.slk.requests.length = 4 → s.slk.tx ≠ .idle →
      (s.slk.pause = .rateChange → s.slk.responses.length < 4 →
        exec i s = .next (s.withSlk { s.slk with responses := s.slk.responses ++
          [{ seq := r.seq, kind := r.kind, role := .plain
             reply := { status := .busy, repeated := false, replaced := false, alreadyStopping := false, detail := 0
                        content := [] } }] })) ∧
      ((s.slk.pause = .softReset ∨ s.slk.responses.length = 4) →
        exec i s = .next (s.withSlk { s.slk with busyDrops := min (s.slk.busyDrops + 1) 65535 }))) ∧
    exec i s = .next (executeWaiting (serve (dispatch r s)))) ∧
  ∀ s : State,
    ((s.slk.requests = [] ∨ s.slk.pause ≠ .running ∨ 4 ≤ s.slk.responses.length) → executeWaiting s = s) ∧
    (∀ r rest, s.slk.requests = r :: rest → s.slk.pause = .running → s.slk.responses.length < 4 →
      executeWaiting s = executeWaiting (serve (perform r (s.withSlk { s.slk with requests := rest })))) ∧
    (∀ r c, s.slk.cache = some c → r.seq ≠ 0#8 → c.seq = r.seq → c.kind = r.kind →
      perform r s = s.withSlk { s.slk with responses := s.slk.responses ++
        [{ seq := r.seq, kind := r.kind, reply := { c.reply with repeated := true }, role := .plain }] }) ∧
    (∀ r, s.fresh r.seq r.kind → perform r s = answer r (execute r s).2 (execute r s).1) ∧
    (∀ i r, requestOf i = some r → s.linkReady → exec i s = .next (serve (perform r s))) ∧
    finishLink s = if s.sched.deferExec = true then serve s else executeWaiting (serve s)

/-- The refusals before a command's own checks, in their order: KIND, length, mode, range (R158, Table 66, Table 71). The rows
of `commandTable` are those tables' codes, lengths and modes, and `fieldRanges` gives each field's range from the table of its
command; the detail of BAD_VALUE is the index of the lowest-numbered field out of range. A refused command changes nothing but
the link. -/
def Obligations.RefusalsComeInTheirOrder : Prop :=
  ∀ (i : Instr) (r : Request) (s : State), requestOf i = some r → s.linkReady → s.fresh r.seq r.kind →
    ((∀ row ∈ commandTable, row.1 ≠ r.kind) → exec i s = .next (respond r (.plain .badKind 0 []) s)) ∧
    ∀ row ∈ commandTable, row.1 = r.kind →
      (r.payload.length ≠ row.2.1 → exec i s = .next (respond r (.plain .badLength row.2.1 []) s)) ∧
      (r.payload.length = row.2.1 → s.run.mode ∉ row.2.2 →
        exec i s = .next (respond r (.plain .wrongMode s.run.mode.code []) s)) ∧
      (r.payload.length = row.2.1 → s.run.mode ∈ row.2.2 →
        ∀ k, (fieldRanges r.kind r.payload)[k]? = some false →
          (∀ j < k, (fieldRanges r.kind r.payload)[j]? = some true) →
          exec i s = .next (respond r (.plain .badValue (k + 1) []) s)) ∧
      ∀ c, Cmd.ofKind r.kind = some c → r.payload.length = row.2.1 → s.run.mode ∈ row.2.2 →
        (∀ k, (c.ranges r.payload)[k]? = some false → (∀ j < k, (c.ranges r.payload)[j]? = some true) →
          exec i s = .next (respond r (.plain .badValue (k + 1) []) s)) ∧
        ((∀ ok ∈ fieldRanges r.kind r.payload, ok = true) →
          exec i s = .next (respond r (c.run r.payload s).2 (c.run r.payload s).1))

/-! ### Queries -/

/-- R166. -/
def Obligations.IdentCarriesTheFixedValues : Prop :=
  ∀ (s : State) (seq : Byte), s.linkReady → s.fresh seq 0x01#8 →
    exec (.ident seq []) s = .next (respond ⟨seq, 0x01#8, []⟩
      (.plain .ok 0 [0x43#8, 0x41#8, 0x01#8, 0x3C#8, 2#8, 48#8, 16#8, 4#8, 16#8, 4#8, 32#8]) s)

/-- STATUS carries the values of Table 58 in the places of Table 75 and changes nothing (R134); LINK_STATUS carries the error
counters, rate, link state and time left, and clears the counters after that when its flag says so (R165). The codes
of the enumerated values are those of Table 70, and the status codes those of Table 73. The time left to a deadline is in whole
milliseconds rounded up, 0 for none; that a deadline which has passed and is not yet taken leaves 0 is log 22. The head and tail
numbers are those of the first and last item, 0 for an empty queue (R38). -/
def Obligations.StatusAndLinkStatusReport : Prop :=
  (∀ (s : State) (seq : Byte), s.linkReady → s.fresh seq 0x02#8 →
    exec (.status seq []) s = .next (respond ⟨seq, 0x02#8, []⟩ (.plain .ok 0
      (be1 s.run.mode.code ++ be1 s.run.faults.code ++ be1 (firstFaultCode s.run.first) ++
        be1 (s.run.drain.isSome.toNat + 2 * (!s.run.flt.level).toNat + 4 * s.lei.valid.toNat) ++
        be2 (msLeft s.run.drain s.partTime) ++ be1 s.lei.motion.code ++ be4 s.lei.position.toNat ++
        be4 s.lei.reach.toNat ++ be3 s.lei.interval ++ be1 s.mkd.state.code ++ be1 s.mkd.missRun ++
        be1 s.iq.items.length ++ be2 s.headNo.toNat ++ be2 s.tailNo.toNat ++ be1 (s.bank 0).state.code ++
        be1 (s.bank 0).count ++ be1 (s.bank 1).state.code ++ be1 (s.bank 1).count ++ be4 s.partTime.toNat ++
        be1 s.ntq.queue.length ++ be1 s.slk.rate.val ++ be1 s.slk.link.code)) s)) ∧
  (∀ (s : State) (seq : Byte) (clear : Bool), s.linkReady → s.fresh seq 0x04#8 →
    exec (.linkStatus seq (be1 clear.toNat)) s = .next (respond ⟨seq, 0x04#8, be1 clear.toNat⟩ (.plain .ok 0
      (be2 s.slk.crcErrors ++ be2 s.slk.lengthErrors ++ be2 s.slk.gapErrors ++ be2 s.slk.busyDrops ++
        be1 s.slk.rate.val ++ be1 s.slk.link.code ++ be2 (msLeft s.slk.trialDeadline s.partTime)))
      (if clear = true then
        s.withSlk { s.slk with crcErrors := 0, lengthErrors := 0, gapErrors := 0, busyDrops := 0 }
       else s))) ∧
  (∀ d now : Time, msLeft none now = 0 ∧ (atOrBeyond now d = true → msLeft (some d) now = 0) ∧
    (atOrBeyond now d = false → msLeft (some d) now = ((d - now).toNat + 999) / 1000)) ∧
  (∀ s : State, (s.iq.items = [] → s.headNo = 0#16 ∧ s.tailNo = 0#16) ∧
    (∀ i rest, s.iq.items = i :: rest → s.headNo = i.no) ∧ ∀ front i, s.iq.items = front ++ [i] → s.tailNo = i.no) ∧
  [Mode.configure, .run, .stopping, .fault].map Mode.code = List.range 4 ∧
  [Motion.halted, .forward, .reverse].map Motion.code = List.range 3 ∧
  [DetState.idle, .off, .search, .track, .coast].map DetState.code = List.range 5 ∧
  [Origin.sensed, .synthetic, .injected].map Origin.code = List.range 3 ∧
  [Verdict.none, .accept, .reject].map Verdict.code = List.range 3 ∧
  [VerdictSource.none, .host, .default].map VerdictSource.code = List.range 3 ∧
  [StationOutcome.notUsed, .pending, .fired, .merged, .skipped, .late].map StationOutcome.code = List.range 6 ∧
  [WindowOutcome.notUsed, .pending, .pass, .fail, .missed].map WindowOutcome.code = List.range 5 ∧
  [BankState.idle, .armed, .active, .draining].map BankState.code = List.range 4 ∧
  [none, some Cause.encoder, some .reverseLimit, some .indexSlip, some .external].map firstFaultCode = List.range 5 ∧
  [Cause.encoder, .reverseLimit, .indexSlip, .external].map Cause.code = [1, 2, 3, 4] ∧
  (∀ f : FaultSet, f.code = f.encoder.toNat + 2 * f.reverseLimit.toNat + 4 * f.indexSlip.toNat + 8 * f.external.toNat) ∧
  [Action.pulse, .set, .clear, .invert].map Action.code = List.range 4 ∧
  [LengthKind.distance, .time].map LengthKind.code = List.range 2 ∧
  [Condition.always, .accepted, .rejected, .windowPass, .windowFail].map Condition.code = List.range 5 ∧
  [EndCause.none, .target, .deadline, .superseded, .mode].map EndCause.code = List.range 5 ∧
  [Expected.active, .inactive].map Expected.code = List.range 2 ∧ [Rule.any, .all].map Rule.code = List.range 2 ∧
  [StrayReason.retrace, .short, .blanked, .early].map StrayReason.code = List.range 4 ∧
  [ModeReason.start, .drain, .drained, .flushed, .drainTimeout, .cleared, .reset].map ModeReason.code = List.range 7 ∧
  [BankEvent.direct, .switch, .activate, .cancel].map BankEvent.code = List.range 4 ∧
  [LinkState.steady, .trial].map LinkState.code = List.range 2 ∧
  [RecipeReason.leadExceedsOffset, .verdictTooEarly, .windowDisabled, .windowTooLate, .windowOverPitch, .offsetOverflow].map
    RecipeReason.code = [1, 2, 3, 4, 5, 6] ∧
  [Status.ok, .badLength, .badKind, .badValue, .wrongMode, .busy, .bankBusy, .bankArmed, .noItem, .late, .recipeInvalid,
    .detectorOn, .externalHold, .noChange, .queueFull].map Status.code = List.range 15

/-- STN_READ and CHK_READ are taken in every mode, answered OK with the definition and the whole run state by Tables 79 to 82,
and change nothing (R86, R101). The time left to a max-on deadline is in microseconds, 0 for none; that a deadline which has
passed and is not yet taken leaves 0 is log 22. -/
def Obligations.ReadsCarryDefinitionAndRunState : Prop :=
  (∀ (s : State) (seq : Byte) (b : Fin 2) (n : Fin 16), s.linkReady → s.fresh seq 0x19#8 →
    let d := (s.station b n).cfg
    let r := (s.station b n).run
    let left : Nat := match r.maxOn with
      | none => 0
      | some m => if atOrBeyond s.partTime m = true then 0 else (m - s.partTime).toNat
    exec (.stnRead seq (be1 b.val ++ be1 n.val)) s = .next (respond ⟨seq, 0x19#8, be1 b.val ++ be1 n.val⟩ (.plain .ok 0
      (be1 b.val ++ be1 n.val ++ be1 d.enabled.toNat ++ be1 d.line.val ++ be1 d.action.code ++ be3 d.offset ++
        be1 d.lengthKind.code ++ be3 d.length ++ be2 d.maxOn ++ be2 d.leadTime ++ be3 d.leadLimit ++
        be1 d.condition.code ++ be1 d.window.val ++
        (be2 (r.cursor.getD 0#16).toNat ++
          be1 (r.held.toNat + 2 * r.on.toNat + 4 * (decide (r.endKind = .time)).toNat + 8 * r.maxOn.isSome.toNat) ++
          be3 (s.lead b n) ++ be1 r.pulseLine.val ++ be4 r.endTarget.toNat ++ be2 r.opening.toNat ++
          be2 left ++ be1 r.lastEnd.code))) s)) ∧
  ∀ (s : State) (seq : Byte) (b : Fin 2) (w : Fin 4), s.linkReady → s.fresh seq 0x1B#8 →
    let d := (s.window b w).cfg
    let r := (s.window b w).run
    exec (.chkRead seq (be1 b.val ++ be1 w.val)) s = .next (respond ⟨seq, 0x1B#8, be1 b.val ++ be1 w.val⟩ (.plain .ok 0
      (be1 b.val ++ be1 w.val ++ be1 d.enabled.toNat ++ be1 d.input.val ++ be1 d.expected.code ++ be3 d.start ++
        be3 d.length ++ be1 d.rule.code ++
        (be2 (r.cursor.getD 0#16).toNat ++ be1 (r.opened.toNat + 2 * r.seenActive.toNat + 4 * r.seenInactive.toNat) ++
          be2 r.recItem.toNat ++ be4 r.recStart.toNat ++ be4 r.recClose.toNat ++ be1 r.last.code))) s)

/-- QUEUE_READ returns up to count records from the named item if it is queued, else from the head, with the found and
more-follow flags and the number of records, and changes nothing (R57). An item record is that of Table 78, with the tag 0 where
there is none, and the outcomes two to a byte, the lower-numbered in the high four bits (R172). -/
def Obligations.QueueReadReturnsRecordsInOrder : Prop :=
  (∀ (s : State) (seq : Byte) (start : ItemNo) (count : Nat), 1 ≤ count → count ≤ 4 → s.linkReady → s.fresh seq 0x2B#8 →
    let p := be2 start.toNat ++ be1 count
    let reply (found : Bool) (rest : List Item) : Answer := .plain .ok 0
      (be1 (found.toNat + 2 * (decide (count < rest.length)).toNat) ++ be1 (min count rest.length) ++
        (rest.take count).flatMap Item.record)
    (∀ before i after, start ≠ 0#16 → s.iq.items = before ++ i :: after → i.no = start → (∀ j ∈ before, j.no ≠ start) →
      exec (.queueRead seq p) s = .next (respond ⟨seq, 0x2B#8, p⟩ (reply true (i :: after)) s)) ∧
    ((start = 0#16 ∨ ∀ i ∈ s.iq.items, i.no ≠ start) →
      exec (.queueRead seq p) s = .next (respond ⟨seq, 0x2B#8, p⟩ (reply false s.iq.items) s))) ∧
  ∀ i : Item, i.record =
    be2 i.no.toNat ++ be1 i.origin.code ++ be1 i.bank.val ++ be4 i.mark.toNat ++ be4 i.created.toNat ++
      be4 (i.tag.getD 0#32).toNat ++
      be1 (i.tag.isSome.toNat + 2 * i.closed.toNat + 4 * (decide (i.state = .decided)).toNat) ++ be1 i.verdict.code ++
      be1 i.source.code ++
      ((List.finRange 8).map fun k => BitVec.ofNat 8 (16 * (i.stations[2 * k.val]).code + (i.stations[2 * k.val + 1]).code)) ++
      (List.finRange 2).map fun k => BitVec.ofNat 8 (16 * (i.windows[2 * k.val]).code + (i.windows[2 * k.val + 1]).code)

/-! ### The link and the part -/

/-- LINK_SET to another rate code is answered OK and pauses execution until its response has left; to the present code it is
NO_CHANGE; in TRIAL either ends the trial, and the recorded old rate is then cleared, which no rule says (log 17). PART_RESET is
answered OK and pauses execution until the soft reset (R136, R157, R162, R164). -/
def Obligations.LinkSetAndPartResetPauseExecution : Prop :=
  (∀ (s : State) (seq : Byte) (new : Fin 6), s.linkReady → s.fresh seq 0x03#8 →
    let u := if s.slk.link = .trial then
        s.withSlk { s.slk with link := .steady, trialDeadline := none, oldRate := none } else s
    (new ≠ s.slk.rate → exec (.linkSet seq (be1 new.val)) s = .next (respond ⟨seq, 0x03#8, be1 new.val⟩
      { reply := .plain .ok 0 (be1 s.slk.rate.val ++ be1 new.val), role := .rateChange new } u)) ∧
    (new = s.slk.rate → exec (.linkSet seq (be1 new.val)) s = .next (respond ⟨seq, 0x03#8, be1 new.val⟩
      (.plain .noChange 0 (be1 s.slk.rate.val)) u))) ∧
  ∀ (s : State) (seq : Byte), s.linkReady → s.fresh seq 0x05#8 →
    exec (.partReset seq []) s = .next (respond ⟨seq, 0x05#8, []⟩ { reply := .plain .ok 0 [], role := .partReset } s)

/-! ### Settings -/

/-- LINE_SET in CONFIGURE replaces all ten settings at once, ends the same-direction run, stops the sub-step timer, sets the
turning point to the present count, clears the index reference, and restarts the position at 0 when S changes (R16, R17). -/
def Obligations.LineSetReplacesTheSettings : Prop :=
  ∀ (s : State) (seq : Byte) (c : LineCfg), c.inRange → s.run.mode = .configure → s.linkReady → s.fresh seq 0x10#8 →
    exec (.lineSet seq c.payload) s = .next (respond ⟨seq, 0x10#8, c.payload⟩ (.plain .ok 0 [])
      (s.withLei (if c.s = s.lei.cfg.s then
          { s.lei with cfg := c, valid := false, sameDir := none, subTimer := none, turning := s.lei.countReg
                       indexRef := false }
        else
          { s.lei with cfg := c, valid := false, sameDir := none, subTimer := none, turning := 0, indexRef := false
                       countReg := 0, sub := 0, reach := 0#32 })))

/-- POS_SET in CONFIGURE makes the position and the reach the value given, stops the sub-step timer, and moves the turning
point with the count register so that the excursion stays; nothing else of the line changes (R18). -/
def Obligations.PosSetPresetsThePosition : Prop :=
  ∀ (s : State) (seq : Byte) (p : Pos), s.positionSound → s.lei.turning < s.lei.countModulus → s.run.mode = .configure →
    s.linkReady → s.fresh seq 0x11#8 →
    ∃ l : Lei, exec (.posSet seq (be4 p.toNat)) s =
        .next (respond ⟨seq, 0x11#8, be4 p.toNat⟩ (.plain .ok 0 []) (s.withLei l)) ∧
      l.position = p ∧ l.reach = p ∧ l.subTimer = none ∧ l.countReg = p.toNat / 2 ^ s.lei.cfg.s ∧
      l.sub = p.toNat % 2 ^ s.lei.cfg.s ∧ l.excursion = s.lei.excursion ∧
      l = { s.lei with countReg := l.countReg, sub := l.sub, reach := l.reach, subTimer := none, turning := l.turning }

/-- SENSE_SET sets the polarity and filter time of one input; MARK_SET replaces all eight settings of the detector; each in
CONFIGURE, answered OK, and changing nothing else (R21, R22). -/
def Obligations.SenseSetAndMarkSetReplaceSettings : Prop :=
  (∀ (s : State) (seq : Byte) (i : Fin 4) (pol : Polarity) (filter : Byte), s.run.mode = .configure → s.linkReady →
    s.fresh seq 0x12#8 →
    let p := be1 i.val ++ be1 pol.code ++ [filter]
    exec (.senseSet seq p) s = .next (respond ⟨seq, 0x12#8, p⟩ (.plain .ok 0 [])
      (s.withSns (s.sns.set i { s.sns[i] with polarity := pol, filterUs := filter.toNat })))) ∧
  ∀ (s : State) (seq : Byte) (c : MarkCfg), c.inRange → s.run.mode = .configure → s.linkReady → s.fresh seq 0x13#8 →
    exec (.markSet seq c.payload) s = .next (respond ⟨seq, 0x13#8, c.payload⟩ (.plain .ok 0 [])
      (s.withMkd { s.mkd with cfg := c }))

/-- LINES_SET in CONFIGURE sets the polarity of every line, bit n of its field being line n; OUT_FORCE sets the forced level of
one line; neither changes anything else (R87, R88). -/
def Obligations.LinesSetAndOutForceActOnTheLines : Prop :=
  (∀ (s : State) (seq hi lo : Byte), s.run.mode = .configure → s.linkReady → s.fresh seq 0x1F#8 →
    ∃ v : Vector Line 16, exec (.linesSet seq [hi, lo]) s =
        .next (respond ⟨seq, 0x1F#8, [hi, lo]⟩ (.plain .ok 0 []) (s.withAct v)) ∧
      ∀ n : Fin 16, v[n] = { s.act[n] with
        polarity := if (hi.toNat * 256 + lo.toNat).testBit n.val then .activeLow else .activeHigh }) ∧
  ∀ (s : State) (seq : Byte) (l : Fin 16) (f : Forced), s.run.mode = .configure → s.linkReady → s.fresh seq 0x20#8 →
    let p := be1 l.val ++ be1 f.code
    exec (.outForce seq p) s = .next (respond ⟨seq, 0x20#8, p⟩ (.plain .ok 0 [])
      (s.withAct (s.act.set l { s.act[l] with forced := f })))

/-- NOTICE_CLASS sets the class of one kind for every later offer and answers with the class before and the whole table after;
notices already queued keep their class (R141). -/
def Obligations.NoticeClassSetsOneClass : Prop :=
  ∀ (s : State) (seq : Byte) (k : Fin 12) (cls : Nat), cls ≤ 3 → ((k = 8 ∨ k = 9) → 1 ≤ cls) → (k = 10 → cls = 3) →
    s.linkReady → s.fresh seq 0x30#8 →
    let p := be1 (0x41 + k.val) ++ be1 cls
    exec (.noticeClass seq p) s = .next (respond ⟨seq, 0x30#8, p⟩
      (.plain .ok 0 (be1 s.ntq.classes[k] ++ (s.ntq.classes.set k cls).toList.flatMap be1))
      (s.withNtq { s.ntq with classes := s.ntq.classes.set k cls }))

/-! ### Recipe banks -/

/-- STN_WRITE, CHK_WRITE and BANK_PARAM to a bank that may be edited replace the whole definition, or the two parameters, and
nothing else (R85, R100, R108, R109). -/
def Obligations.BankEditsReplaceTheContents : Prop :=
  ∀ (s : State) (seq : Byte) (b : Fin 2), s.linkReady →
    ((s.bank b).state = .idle ∨ ((s.bank b).state = .active ∧ s.run.mode = .configure)) →
    (∀ (n : Fin 16) (d : StationDef), d.inRange → s.fresh seq 0x18#8 →
      exec (.stnWrite seq (d.record b n)) s = .next (respond ⟨seq, 0x18#8, d.record b n⟩ (.plain .ok 0 [])
        (s.modStation b n fun st => { st with cfg := d }))) ∧
    (∀ (w : Fin 4) (d : WindowDef), d.inRange → s.fresh seq 0x1A#8 →
      exec (.chkWrite seq (d.record b w)) s = .next (respond ⟨seq, 0x1A#8, d.record b w⟩ (.plain .ok 0 [])
        (s.modWindow b w fun wd => { wd with cfg := d }))) ∧
    ∀ (dist : Nat) (v : Verdict), dist < 2 ^ 24 → v ≠ .none → s.fresh seq 0x1C#8 →
      let p := be1 b.val ++ be3 dist ++ be1 v.code
      exec (.bankParam seq p) s = .next (respond ⟨seq, 0x1C#8, p⟩ (.plain .ok 0 [])
        (s.modBank b fun k => { k with closeDistance := dist, defaultVerdict := v }))

/-- The editing permission of Table 46: BANK_ARMED for an ARMED bank; BANK_BUSY for a DRAINING bank, and for the ACTIVE bank
outside CONFIGURE. A refused edit changes nothing (R108). -/
def Obligations.BankEditsAreRefusedByTable46 : Prop :=
  ∀ (s : State) (seq : Byte) (b : Fin 2) (refusal : Status), s.linkReady →
    (((s.bank b).state = .armed ∧ refusal = .bankArmed) ∨ ((s.bank b).state = .draining ∧ refusal = .bankBusy) ∨
      ((s.bank b).state = .active ∧ s.run.mode ≠ .configure ∧ refusal = .bankBusy)) →
    (∀ (n : Fin 16) (d : StationDef), d.inRange → s.fresh seq 0x18#8 →
      exec (.stnWrite seq (d.record b n)) s = .next (respond ⟨seq, 0x18#8, d.record b n⟩ (.plain refusal 0 []) s)) ∧
    (∀ (w : Fin 4) (d : WindowDef), d.inRange → s.fresh seq 0x1A#8 →
      exec (.chkWrite seq (d.record b w)) s = .next (respond ⟨seq, 0x1A#8, d.record b w⟩ (.plain refusal 0 []) s)) ∧
    ∀ (dist : Nat) (v : Verdict), dist < 2 ^ 24 → v ≠ .none → s.fresh seq 0x1C#8 →
      let p := be1 b.val ++ be3 dist ++ be1 v.code
      exec (.bankParam seq p) s = .next (respond ⟨seq, 0x1C#8, p⟩ (.plain refusal 0 []) s)

/-- BANK_COMMIT: refused by the state of the bank, then by the recipe check; at once in CONFIGURE with N_BANK DIRECT; ARMED in
RUN and STOPPING (R112). -/
def Obligations.BankCommitSwitchesOrArms : Prop :=
  ∀ (s : State) (seq : Byte) (b : Fin 2), s.run.mode ≠ .fault → s.linkReady → s.fresh seq 0x1D#8 →
    let r : Request := ⟨seq, 0x1D#8, be1 b.val⟩
    ((s.bank b).state = .active → exec (.bankCommit seq (be1 b.val)) s = .next (respond r (.plain .noChange 0 []) s)) ∧
    ((s.bank b).state = .armed → exec (.bankCommit seq (be1 b.val)) s = .next (respond r (.plain .bankArmed 0 []) s)) ∧
    ((s.bank b).state = .draining → exec (.bankCommit seq (be1 b.val)) s = .next (respond r (.plain .bankBusy 0 []) s)) ∧
    (∀ why k, (s.bank b).state = .idle → (s.bank b).recipeFault s.mkd.cfg.pitch = some (why, k) →
      exec (.bankCommit seq (be1 b.val)) s = .next (respond r (.plain .recipeInvalid why.code (be1 k)) s)) ∧
    ((s.bank b).state = .idle → (s.bank b).recipeFault s.mkd.cfg.pitch = none → s.run.mode = .configure →
      let u := (s.modBank (otherBank b) fun k => { k with state := .idle }).modBank b fun k =>
        { k with state := .active, activation := { how := .direct, first := 0#16 } }
      exec (.bankCommit seq (be1 b.val)) s = .next (respond r (.plain .ok 0 (be1 2))
        (u.offer (.bank .direct b (u.bank 0).state (u.bank 0).count (u.bank 1).state (u.bank 1).count 0#16 s.lei.reach)))) ∧
    ((s.bank b).state = .idle → (s.bank b).recipeFault s.mkd.cfg.pitch = none → s.run.mode ≠ .configure →
      exec (.bankCommit seq (be1 b.val)) s = .next (respond r (.plain .ok 0 (be1 1))
        (s.modBank b fun k => { k with state := .armed })))

/-- BANK_CANCEL: an ARMED bank becomes IDLE; a commit that has taken effect is LATE with the first item number; every other
case is NO_CHANGE (R115). -/
def Obligations.BankCancelWithdrawsAnArmedBank : Prop :=
  ∀ (s : State) (seq : Byte) (b : Fin 2), s.linkReady → s.fresh seq 0x1E#8 →
    let r : Request := ⟨seq, 0x1E#8, be1 b.val⟩
    ((s.bank b).state = .armed → exec (.bankCancel seq (be1 b.val)) s =
      .next (respond r (.plain .ok 0 []) (s.modBank b fun k => { k with state := .idle }))) ∧
    ((s.bank b).state = .active → (s.bank b).activation.how ≠ .reset → exec (.bankCancel seq (be1 b.val)) s =
      .next (respond r (.plain .late 0 (be2 (s.bank b).activation.first.toNat)) s)) ∧
    (((s.bank b).state = .idle ∨ (s.bank b).state = .draining ∨
        ((s.bank b).state = .active ∧ (s.bank b).activation.how = .reset)) →
      exec (.bankCancel seq (be1 b.val)) s = .next (respond r (.plain .noChange 0 []) s))

/-- The recipe check passes exactly when no enabled station and no enabled window meets a failure condition of Table 48; else it
reports the first step of the table that fails, the steps in the order of their reason codes, and the lowest-numbered station or
window that fails at it (R110). -/
def Obligations.RecipeCheckFollowsTable48 : Prop :=
  (∀ (k : Bank) (pitch : Nat), k.recipeFault pitch = none ↔
    (∀ n : Fin 16, (k.stations[n]).cfg.enabled = true →
      let d := (k.stations[n]).cfg
      d.leadLimit ≤ d.offset ∧
      ((d.condition = .accepted ∨ d.condition = .rejected) → k.closeDistance ≤ d.offset - d.leadLimit) ∧
      ((d.condition = .windowPass ∨ d.condition = .windowFail) → (k.windows[d.window]).cfg.enabled = true ∧
        (k.windows[d.window]).cfg.start + (k.windows[d.window]).cfg.length ≤ d.offset - d.leadLimit) ∧
      (d.action = .pulse → d.lengthKind = .distance → d.offset + d.length ≤ 2 ^ 24 - 1)) ∧
    ∀ w : Fin 4, (k.windows[w]).cfg.enabled = true → pitch ≠ 0 → (k.windows[w]).cfg.length < pitch) ∧
  ∀ (k : Bank) (pitch : Nat),
    let fails (why : RecipeReason) (j : Nat) : Prop := match why with
      | .windowOverPitch => ∃ w : Fin 4, w.val = j ∧ (k.windows[w]).cfg.enabled = true ∧ pitch ≠ 0 ∧
          pitch ≤ (k.windows[w]).cfg.length
      | _ => ∃ n : Fin 16, n.val = j ∧ (k.stations[n]).cfg.enabled = true ∧
        let d := (k.stations[n]).cfg
        match why with
        | .leadExceedsOffset => d.offset < d.leadLimit
        | .verdictTooEarly => (d.condition = .accepted ∨ d.condition = .rejected) ∧ d.offset - d.leadLimit < k.closeDistance
        | .windowDisabled => (d.condition = .windowPass ∨ d.condition = .windowFail) ∧
            (k.windows[d.window]).cfg.enabled = false
        | .windowTooLate => (d.condition = .windowPass ∨ d.condition = .windowFail) ∧
            d.offset - d.leadLimit < (k.windows[d.window]).cfg.start + (k.windows[d.window]).cfg.length
        | .windowOverPitch => False
        | .offsetOverflow => d.action = .pulse ∧ d.lengthKind = .distance ∧ 2 ^ 24 - 1 < d.offset + d.length
    ∀ why j, k.recipeFault pitch = some (why, j) ↔
      fails why j ∧ (∀ i, i < j → ¬ fails why i) ∧ ∀ other i, other.code < why.code → ¬ fails other i

/-! ### Run control -/

/-- RUN_START in CONFIGURE: refused with EXTERNAL_HOLD, then by the recipe check; taken, the mode is RUN, the reach takes the
position, the detector starts afresh, forced levels are cleared, and N_MODE START follows (R12, R14, R23, R84, R123, R124). -/
def Obligations.RunStartBeginsTheRun : Prop :=
  ∀ (s : State) (seq : Byte), s.run.mode = .configure → s.linkReady → s.fresh seq 0x24#8 →
    let r : Request := ⟨seq, 0x24#8, []⟩
    (s.run.flt.level = false → exec (.runStart seq []) s = .next (respond r (.plain .externalHold 0 []) s)) ∧
    (∀ why k, s.run.flt.level = true → (s.bank s.activeBank).recipeFault s.mkd.cfg.pitch = some (why, k) →
      exec (.runStart seq []) s = .next (respond r (.plain .recipeInvalid why.code (be1 k)) s)) ∧
    (s.run.flt.level = true → (s.bank s.activeBank).recipeFault s.mkd.cfg.pitch = none →
      ∃ v : Vector Line 16, (∀ l : Fin 16, v[l] = { s.act[l] with forced := .none }) ∧
        exec (.runStart seq []) s = .next (respond r
          (.plain .ok 0 (be1 1 ++ be1 s.activeBank.val ++ be4 s.lei.position.toNat ++ be2 s.iq.next.toNat))
          (((((s.withRun { s.run with mode := .run }).withLei { s.lei with reach := s.lei.position, indexRef := false }).withMkd
              { cfg := s.mkd.cfg, state := if s.mkd.cfg.enable then .search else .off, expected := 0#32, missRun := 0,
                lastAccepted := none, candidate := none, deferred := false, lastCreated := 0#16 }).withAct v).offer
            (.mode .run .configure .start 0 0#16 0#16 s.lei.position s.lei.position s.activeBank none))))

/-- RUN_STOP DRAIN: in RUN the mode is STOPPING, the deadline is armed for a limit other than 0, the detector is IDLE and N_MODE
DRAIN follows, with the items kept; an empty queue ends the drain at once in CONFIGURE, N_MODE DRAINED after N_MODE DRAIN and
the N_BANK ACTIVATE of an ARMED bank between them, which carries the reach already set to the position (log 23). In STOPPING it is OK
with the ALREADY_STOPPING flag and changes nothing. The time left to the deadline is in whole milliseconds rounded up, 0 for none
and for one that has passed and is not yet taken (log 22); the head and tail numbers are 0 for an empty queue (R38, R125, R126,
R127). -/
def Obligations.DrainStopsCreationAndKeepsTheItems : Prop :=
  ∀ (s : State) (seq : Byte) (limit : Nat), limit ≤ 65535 → s.linkReady → s.fresh seq 0x25#8 →
    let r : Request := ⟨seq, 0x25#8, 0#8 :: be2 limit⟩
    let deadline : Option Time := if limit = 0 then none else some (s.partTime + BitVec.ofNat 32 (limit * 1000))
    let number (i : Option Item) : Nat := match i with
      | none => 0
      | some i => i.no.toNat
    let left (drain : Option Time) : Nat := match drain with
      | none => 0
      | some d => if atOrBeyond s.partTime d = true then 0 else ((d - s.partTime).toNat + 999) / 1000
    let content (mode : Mode) (drain : Option Time) : List Byte :=
      be1 mode.code ++ be1 s.iq.items.length ++ be2 (number s.iq.items.head?) ++ be2 (number s.iq.items.getLast?) ++
        be1 drain.isSome.toNat ++ be2 (left drain)
    let u := ((s.withRun { s.run with mode := .stopping, drain := deadline }).withMkd s.mkd.dropped).offer
      (.mode .stopping .run .drain 0 0#16 0#16 s.lei.position s.lei.reach s.activeBank none)
    (s.run.mode = .run → s.iq.items ≠ [] →
      exec (.runStopDrain seq (be2 limit)) s = .next (respond r (.plain .ok 0 (content .stopping deadline)) u)) ∧
    (s.run.mode = .run → s.iq.items = [] → s.banksLegal → s.countsExact →
      ∃ v, u.flushed v ∧ v.run = { s.run with mode := .configure, drain := none } ∧
        exec (.runStopDrain seq (be2 limit)) s = .next (respond r (.plain .ok 0 (content .configure none))
        (v.offer (.mode .configure .stopping .drained 0 0#16 0#16 s.lei.position s.lei.position v.activeBank none)))) ∧
    (s.run.mode = .stopping → exec (.runStopDrain seq (be2 limit)) s = .next (respond r
      { reply := { status := .ok, repeated := false, replaced := false, alreadyStopping := true, detail := 0
                   content := content .stopping s.run.drain }
        role := .plain } s))

/-- RUN_STOP FLUSH in RUN and STOPPING removes every item and enters CONFIGURE with N_MODE FLUSHED; FAULT_CLEAR in FAULT, FLT_IN
being inactive, does the same with CLEARED and empties the fault set; with FLT_IN active it is EXTERNAL_HOLD. The responses
carry what was discarded, and the faults cleared (R128, R132); that the N_BANK ACTIVATE of an ARMED bank carries the reach already
set to the position is log 23. -/
def Obligations.FlushAndFaultClearEmptyTheQueue : Prop :=
  ∀ (s : State) (seq : Byte), s.banksLegal → s.linkReady →
    let gone := be1 s.iq.items.length ++ be2 s.headNo.toNat ++ be2 s.tailNo.toNat
    (s.running = true → s.fresh seq 0x25#8 →
      ∃ v, s.flushed v ∧ v.run = { s.run with mode := .configure, drain := none } ∧
        exec (.runStopFlush seq [0#8, 0#8]) s = .next (respond ⟨seq, 0x25#8, [1#8, 0#8, 0#8]⟩ (.plain .ok 0 (be1 0 ++ gone))
          (v.offer (.mode .configure s.run.mode .flushed s.iq.items.length s.headNo s.tailNo s.lei.position s.lei.position
            v.activeBank none)))) ∧
    (s.run.mode = .fault → s.fresh seq 0x26#8 →
      (s.run.flt.level = false →
        exec (.faultClear seq []) s = .next (respond ⟨seq, 0x26#8, []⟩ (.plain .externalHold 0 []) s)) ∧
      (s.run.flt.level = true →
        ∃ v, s.flushed v ∧
          v.run = { s.run with mode := .configure, drain := none, first := none
                               faults := { encoder := false, reverseLimit := false, indexSlip := false, external := false } } ∧
          exec (.faultClear seq []) s = .next (respond ⟨seq, 0x26#8, []⟩
            (.plain .ok 0 (be1 s.run.faults.code ++ be1 (firstFaultCode s.run.first) ++ gone))
            (v.offer (.mode .configure .fault .cleared s.iq.items.length s.headNo s.tailNo s.lei.position s.lei.position
              v.activeBank none)))))

/-! ### The item queue -/

/-- ITEM_TAG sets the tag of a queued item, and ITEM_VERDICT the verdict of one whose verdict is open, with REPLACED where there
was one before; a closed verdict is LATE and stands; an item that is not queued is NO_ITEM (R47, R53). The numbers present are
distinct in every reachable state (DetectorAndCountsKept), so one item is changed. -/
def Obligations.TagAndVerdictActOnOneItem : Prop :=
  ∀ (s : State) (seq : Byte) (no : ItemNo), no ≠ 0#16 → s.running = true → s.linkReady →
    let reply (replaced : Bool) (content : List Byte) : Answer :=
      { reply := { status := .ok, repeated := false, replaced := replaced, alreadyStopping := false, detail := 0
                   content := content }
        role := .plain }
    let absent : Prop := ∀ i ∈ s.iq.items, i.no ≠ no
    let first (i : Item) : Prop := ∃ before after, s.iq.items = before ++ i :: after ∧ i.no = no ∧ ∀ j ∈ before, j.no ≠ no
    let changed (f : Item → Item) : State :=
      s.withIq { s.iq with items := s.iq.items.map fun i => if i.no = no then f i else i }
    (∀ tag : BitVec 32, s.fresh seq 0x28#8 →
      let p := be2 no.toNat ++ be4 tag.toNat
      (absent → exec (.itemTag seq p) s = .next (respond ⟨seq, 0x28#8, p⟩ (.plain .noItem 0 []) s)) ∧
      ∀ i, first i → exec (.itemTag seq p) s = .next (respond ⟨seq, 0x28#8, p⟩ (reply i.tag.isSome [])
        (changed fun j => { j with tag := some tag }))) ∧
    (∀ v : Verdict, v ≠ .none → s.fresh seq 0x29#8 →
      let p := be2 no.toNat ++ be1 v.code
      (absent → exec (.itemVerdict seq p) s = .next (respond ⟨seq, 0x29#8, p⟩ (.plain .noItem 0 []) s)) ∧
      (∀ i, first i → i.closed = true → exec (.itemVerdict seq p) s = .next (respond ⟨seq, 0x29#8, p⟩
        (.plain .late 0 (be1 i.verdict.code ++ be1 i.source.code)) s)) ∧
      ∀ i, first i → i.closed = false → exec (.itemVerdict seq p) s = .next (respond ⟨seq, 0x29#8, p⟩
        (reply (decide (i.source = .host)) (be1 v.code ++ be1 1))
        (changed fun j => { j with verdict := v, source := .host })))

/-- ITEM_INJECT in RUN with the detector OFF: an item of origin INJECTED at the reach joins a queue that has room, an ARMED bank
becoming ACTIVE first, and the response carries its number, mark position and bank; with 48 items it is QUEUE_FULL with N_QFULL;
with the detector on it is DETECTOR_ON. The last clause of these gives the whole state for an item that no station and no window
takes up (R39, R40, R41, R42, R44, R55). And the steps of every creation, whatever its origin: refused with N_QFULL at 48 items;
else an ARMED bank becomes ACTIVE with N_BANK SWITCH, the one displaced DRAINING or IDLE; the record joins the queue at its tail
under the next number, its entries PENDING where the station or window is enabled; a verdict already due closes; the DECIDED
test is applied; and the stations and windows whose cursor is none take up an entry that is PENDING, in some order (log 6), each
with its due or opening test (R39, R40, R41, R42, R44, R45, R64, R92, R105, R113, R116). -/
def Obligations.ItemInjectMakesAnItemAtTheReach : Prop :=
  (∀ (s : State) (seq : Byte), s.run.mode = .run → s.linkReady → s.fresh seq 0x2A#8 →
    let r : Request := ⟨seq, 0x2A#8, []⟩
    let next : ItemNo := if s.iq.next = 65535#16 then 1#16 else s.iq.next + 1#16
    (s.mkd.state ≠ .off → exec (.itemInject seq []) s = .next (respond r (.plain .detectorOn 0 []) s)) ∧
    (s.mkd.state = .off → 48 ≤ s.iq.items.length → exec (.itemInject seq []) s = .next (respond r
      (.plain .queueFull 0 (be2 0 ++ be4 s.lei.reach.toNat ++ [0xFF#8]))
      (s.offer (.qfull .injected s.lei.reach s.lei.reach s.headNo)))) ∧
    (s.mkd.state = .off → s.iq.items.length < 48 → s.iq.next ≠ 0#16 →
      ∃ t, exec (.itemInject seq []) s = .next (respond r
          (.plain .ok 0 (be2 s.iq.next.toNat ++ be4 s.lei.reach.toNat ++ be1 t.activeBank.val)) t) ∧
        t = (createItem .injected s.lei.reach s).1 ∧ t.run = s.run ∧ t.lei = s.lei ∧ t.mkd = s.mkd ∧ t.fixed = s.fixed ∧
        t.iq.next = next ∧
        (s.armedBank = none → t.activeBank = s.activeBank) ∧
        ∀ b, s.armedBank = some b → t.activeBank = b ∧ (t.bank b).activation = { how := .switch, first := s.iq.next }) ∧
    (s.mkd.state = .off → s.iq.items = [] → s.iq.next ≠ 0#16 → s.armedBank = none →
      1 ≤ (s.bank s.activeBank).closeDistance → (s.bank s.activeBank).closeDistance < 2 ^ 24 →
      (∀ n, (s.station s.activeBank n).cfg.enabled = false) → (∀ w, (s.window s.activeBank w).cfg.enabled = false) →
      exec (.itemInject seq []) s = .next (respond r
        (.plain .ok 0 (be2 s.iq.next.toNat ++ be4 s.lei.reach.toNat ++ be1 s.activeBank.val))
        ((s.withIq { items := [{ no := s.iq.next, origin := .injected, bank := s.activeBank, mark := s.lei.reach
                                 created := s.partTime, tag := none, verdict := .none, source := .none, closed := false
                                 stations := Vector.replicate 16 .notUsed, windows := Vector.replicate 4 .notUsed
                                 state := .tracking }]
                     next := next }).modBank s.activeBank fun k => { k with count := k.count + 1 })))) ∧
  (∀ (origin : Origin) (mark : Pos) (s : State),
    (48 ≤ s.iq.items.length → createItem origin mark s = (s.offer (.qfull origin mark s.lei.reach s.headNo), 0#16)) ∧
    (s.iq.items.length < 48 →
      let switched := match s.armedBank with
        | none => s
        | some b =>
          let u := (s.modBank (otherBank b) fun k => { k with state := if k.count = 0 then .idle else .draining }).modBank b
            fun k => { k with state := .active, activation := { how := .switch, first := s.iq.next } }
          u.offer (.bank .switch b (u.bank 0).state (u.bank 0).count (u.bank 1).state (u.bank 1).count s.iq.next s.lei.reach)
      let a := switched.activeBank
      ∃ (i : Item) (takers : List Taker),
        i = { no := s.iq.next, origin := origin, bank := a, mark := mark, created := s.partTime, tag := none
              verdict := .none, source := .none, closed := false, stations := i.stations, windows := i.windows
              state := .tracking } ∧
        (∀ n : Fin 16, i.stations[n] = if (switched.station a n).cfg.enabled = true then .pending else .notUsed) ∧
        (∀ w : Fin 4, i.windows[w] = if (switched.window a w).cfg.enabled = true then .pending else .notUsed) ∧
        takers.Perm ((List.finRange 16).map .station ++ (List.finRange 4).map .window) ∧
        let joined := (switched.withIq { items := s.iq.items ++ [i]
                                         next := if s.iq.next = 65535#16 then 1#16 else s.iq.next + 1#16 }).modBank a
          fun k => { k with count := k.count + 1 }
        let closed := if atOrBeyond s.lei.reach (mark + BitVec.ofNat 32 (joined.bank a).closeDistance) = true then
          closeVerdict i joined else joined
        createItem origin mark s = (takers.foldl (fun u t => takeUp a s.iq.next t u)
          (retireHeads (closed.modItem s.iq.next Item.decidedTest)), s.iq.next))) ∧
  ∀ (b : Fin 2) (no : ItemNo) (s : State),
    ((∀ i ∈ s.iq.items, i.no ≠ no) → ∀ t, takeUp b no t s = s) ∧
    ∀ before i after, s.iq.items = before ++ i :: after → i.no = no → (∀ j ∈ before, j.no ≠ no) →
      (∀ n : Fin 16, takeUp b no (.station n) s =
        if (s.station b n).run.cursor = none ∧ i.stations[n] = .pending then
          stationLoop b n (s.iq.items.length + 1) (s.modStationRun b n fun r => { r with cursor := some no })
        else s) ∧
      ∀ w : Fin 4, takeUp b no (.window w) s =
        if (s.window b w).run.cursor = none ∧ i.windows[w] = .pending then
          windowLoop b w (s.iq.items.length + 1) (s.modWindowRun b w fun r => { r with cursor := some no })
        else s

/-- Closing gives an open verdict NONE the default of the bank and keeps a verdict of the host; an item whose verdict is closed
and of whose outcomes none is PENDING becomes DECIDED; and a DECIDED item retires from the head, with N_ITEM and its bank's
count one less, the next head after it, until the head is TRACKING or, in STOPPING, the drain ends (R46, R49, R50, R105, R106,
R127). When the verdicts close: at an advance of the reach in RUN and STOPPING, item by item in queue order, at the close
distance of the item's bank; each closing applies the DECIDED test and lets the stations held on the verdict decide (R45, R49,
R70). -/
def Obligations.ItemsCloseSettleAndRetireInOrder : Prop :=
  (∀ (d : Verdict) (i : Item),
    (i.verdict = .none → i.close d = { i with verdict := d, source := .default, closed := true }) ∧
      (i.verdict ≠ .none → i.close d = { i with closed := true })) ∧
  (∀ i : Item,
    let finished := i.closed = true ∧ (∀ n : Fin 16, i.stations[n] ≠ .pending) ∧ ∀ w : Fin 4, i.windows[w] ≠ .pending
    (finished → i.decidedTest = { i with state := .decided }) ∧ (¬ finished → i.decidedTest = i)) ∧
  (∀ s : State,
    (s.iq.items = [] → retireHeads s = s) ∧
    (∀ i rest, s.iq.items = i :: rest → i.state = .tracking → retireHeads s = s) ∧
    (∀ i rest, s.iq.items = i :: rest → i.state = .decided →
      let t := ((s.withIq { s.iq with items := rest }).offer (.item i s.lei.reach rest.length)).modBank i.bank fun k =>
        { k with count := k.count - 1, state := if k.state = .draining ∧ k.count ≤ 1 then .idle else k.state }
      ((s.run.mode ≠ .stopping ∨ rest ≠ []) → retireHeads s = retireHeads t) ∧
      (s.run.mode = .stopping → rest = [] → retireHeads s = enterConfigure .drained .nothing t))) ∧
  ∀ (note : Option NoticeBody) (i : Item) (s : State),
    Task.verdicts.run note s = (if s.running = true then
      s.iq.items.foldl (fun u j => if u.running = true ∧ j.closed = false ∧
        atOrBeyond u.lei.reach (j.mark + BitVec.ofNat 32 (u.bank j.bank).closeDistance) = true then closeVerdict j u else u) s
      else s) ∧
    closeVerdict i s = releaseHeld i.bank i.no (fun d => decide (d.condition = .accepted ∨ d.condition = .rejected))
      (retireHeads ((s.modItem i.no (Item.close (s.bank i.bank).defaultVerdict)).modItem i.no Item.decidedTest))

/-! ### The judgement of marks -/

/-- A valid candidate, once every window that it lies beyond has closed: EARLY short of the last accepted position, BLANKED in
free mode, EARLY short of the window, and else accepted, with a SENSED item at its leading edge and N_MARK, and where there is a
pitch TRACK, the window one pitch on, and the close test of that window. A miss: a SYNTHETIC item at the expected position and
COAST within the miss limit, N_LOST and SEARCH beyond it (R27, R28, R30, R31, R32, R33, R34, R35). When: the close test of a
window that the reach has passed, deferred by a candidate inside it (R29, R31), the qualification of a candidate at the minimum
mark length and the release of the last accepted position 2^30 lu behind the reach, at an advance of the reach in RUN and
STOPPING (R26, R27), and each edge of the selected input: a mark edge that opens a candidate, judged at once for a minimum mark
length of 0, and a level loss, which releases a deferred miss (R24, R25, R26, R29). -/
def Obligations.CandidatesAreJudgedAndMissesCounted : Prop :=
  (∀ (s : State) (lead : Pos), s.run.mode = .run →
    let u := s.withMkd { s.mkd with candidate := none, deferred := false }
    let v := if (s.mkd.state = .track ∨ s.mkd.state = .coast) ∧
        atOrBeyond (s.mkd.expected + BitVec.ofNat 32 s.mkd.cfg.tolerance) lead = false then closeTest u else u
    let m := v.mkd
    let windowStart := m.expected - BitVec.ofNat 32 m.cfg.tolerance
    let c := createItem .sensed lead v
    let accepted (state : DetState) (expected : Pos) (missRun : Nat) (deviation : Int) (notMeasured : Bool) : State :=
      (c.1.withMkd { m with state := state, expected := expected, missRun := missRun, lastAccepted := some lead
                            lastCreated := c.2 }).offer
        (.mark .sensed c.2 lead s.lei.reach state missRun deviation notMeasured)
    let locked := m.state = .track ∨ m.state = .coast
    (∀ last, m.state = .search ∨ locked → m.lastAccepted = some last → atOrBeyond lead last = false →
      judge lead s = v.offer (.stray .early lead s.lei.reach m.state last)) ∧
    ((∀ last, m.lastAccepted = some last → atOrBeyond lead last = true) →
      (∀ last, m.state = .search → m.cfg.pitch = 0 → m.lastAccepted = some last →
        atOrBeyond lead (last + BitVec.ofNat 32 m.cfg.blanking) = false →
        judge lead s = v.offer (.stray .blanked lead s.lei.reach .search last)) ∧
      (m.state = .search → m.cfg.pitch = 0 →
        (∀ last, m.lastAccepted = some last → atOrBeyond lead (last + BitVec.ofNat 32 m.cfg.blanking) = true) →
        judge lead s = accepted .search m.expected m.missRun 0 true) ∧
      (m.state = .search → m.cfg.pitch ≠ 0 →
        judge lead s = closeTest (accepted .track (lead + BitVec.ofNat 32 m.cfg.pitch) 0 0 true)) ∧
      (locked → atOrBeyond lead windowStart = false →
        judge lead s = v.offer (.stray .early lead s.lei.reach m.state windowStart)) ∧
      (locked → atOrBeyond lead windowStart = true →
        judge lead s = closeTest
          (accepted .track (lead + BitVec.ofNat 32 m.cfg.pitch) 0 (lead - m.expected).toInt false)))) ∧
  (∀ s : State, s.run.mode = .run →
    let m := s.mkd
    let c := createItem .synthetic m.expected s
    (m.missRun < m.cfg.missLimit → missMark s =
      (c.1.withMkd { m with state := .coast, expected := m.expected + BitVec.ofNat 32 m.cfg.pitch, missRun := m.missRun + 1
                            lastAccepted := some m.expected, lastCreated := c.2 }).offer
        (.mark .synthetic c.2 m.expected s.lei.reach .coast (m.missRun + 1) 0 true)) ∧
    (m.cfg.missLimit ≤ m.missRun → missMark s =
      (s.offer (.lost m.expected m.cfg.missLimit s.lei.reach m.lastCreated)).withMkd { m with missRun := 0, state := .search })) ∧
  (∀ (k : Nat) (s : State),
    let m := s.mkd
    let passed := (m.state = .track ∨ m.state = .coast) ∧
      atOrBeyond s.lei.reach (m.expected + BitVec.ofNat 32 (m.cfg.tolerance + 1)) = true
    let inside (lead : Pos) := atOrBeyond lead (m.expected - BitVec.ofNat 32 m.cfg.tolerance) = true ∧
      atOrBeyond (m.expected + BitVec.ofNat 32 m.cfg.tolerance) lead = true
    closeTest s = closeLoop (m.cfg.missLimit + 2) s ∧ closeLoop 0 s = s ∧
    (¬ passed → closeLoop (k + 1) s = s) ∧
    (∀ lead, passed → m.candidate = some lead → inside lead → closeLoop (k + 1) s = s.withMkd { m with deferred := true }) ∧
    (passed → (∀ lead, m.candidate = some lead → ¬ inside lead) → closeLoop (k + 1) s = closeLoop k (missMark s))) ∧
  (∀ (note : Option NoticeBody) (s : State),
    let m := s.mkd
    let sees := m.state = .search ∨ m.state = .track ∨ m.state = .coast
    Task.markRelease.run note s =
      (if s.running = true ∧ m.state = .search ∧ ∃ last ∈ m.lastAccepted, atOrBeyond s.lei.reach (last + 0x40000000#32) = true
        then s.withMkd { m with lastAccepted := none } else s) ∧
    (∀ lead, s.running = true → sees → m.candidate = some lead →
      atOrBeyond s.lei.reach (lead + BitVec.ofNat 32 m.cfg.minLength) = true → Task.markQualify.run note s = judge lead s) ∧
    ((s.running = false ∨ ¬ sees ∨
        ∀ lead, m.candidate = some lead → atOrBeyond s.lei.reach (lead + BitVec.ofNat 32 m.cfg.minLength) = false) →
      Task.markQualify.run note s = s) ∧
    Task.markClose.run note s = if s.running = true then closeTest s else s) ∧
  ∀ (input : Fin 4) (active : Bool) (s : State),
    let m := s.mkd
    let sees := (m.state = .search ∨ m.state = .track ∨ m.state = .coast) ∧ m.cfg.input = input
    let mark := (m.cfg.edge = .rising ∧ active = true) ∨ (m.cfg.edge = .falling ∧ active = false)
    let t := EdgeUser.detector.take input active s
    (¬ sees → t = s) ∧
    (sees → mark → m.candidate ≠ none → t = s) ∧
    (sees → mark → m.candidate = none → s.lei.position ≠ s.lei.reach →
      t = s.offer (.stray .retrace s.lei.position s.lei.reach m.state 0#32)) ∧
    (sees → mark → m.candidate = none → s.lei.position = s.lei.reach →
      t = if m.cfg.minLength = 0 then judge s.lei.reach s else s.withMkd { m with candidate := some s.lei.reach }) ∧
    (sees → ¬ mark → m.candidate = none → t = s) ∧
    (∀ lead, sees → ¬ mark → m.candidate = some lead →
      let u := (s.offer (.stray .short lead s.lei.reach m.state 0#32)).withMkd { m with candidate := none, deferred := false }
      t = if m.deferred = true then closeTest (missMark u) else u)

/-! ### Stations, windows, lines and notices -/

/-- The action of a station whose condition is true, and SKIPPED when it is false: the latch actions, and a PULSE that is LATE,
starts, is merged, or supersedes a pulse of another line or kind (R71 to R75). When it acts: the lead distance (R67; its value
at a valid interval of 0 is free, log 12, within the lead limit), the due test of the cursor item at its effective start (R5,
R68), the condition, where it can be evaluated (R69), the holding of a due item whose condition cannot be, and its release,
whatever the effective start has become (R70); with each decision the outcome is written in the place of PENDING, the DECIDED
test is applied, and the cursor goes to the nearest item of the bank behind (R41, R49, R64, R65, R71). Held stations released by
one event decide in some order (log 6). And the end of a DISTANCE pulse when the reach comes to its end target (R77). -/
def Obligations.StationActsByItsDefinition : Prop :=
  (∀ (b : Fin 2) (n : Fin 16) (i : Item) (s : State),
    let d := (s.station b n).cfg
    let r := (s.station b n).run
    let target := i.mark + BitVec.ofNat 32 d.offset + BitVec.ofNat 32 d.length - BitVec.ofNat 32 (s.lead b n)
    let started (kind : LengthKind) (e : BitVec 32) (m : Option Time) (cause : EndCause) : StationRun :=
      { r with on := true, pulseLine := d.line, endKind := kind, endTarget := e, opening := i.no, maxOn := m, lastEnd := cause }
    let deadline : Option Time := if d.maxOn = 0 then none else some (s.partTime + BitVec.ofNat 32 d.maxOn)
    stationAct b n i false s = (s, .skipped) ∧
    (d.action = .set → stationAct b n i true s = (s.modLine d.line fun l => { l with latch := true }, .fired)) ∧
    (d.action = .clear → stationAct b n i true s = (s.modLine d.line fun l => { l with latch := false }, .fired)) ∧
    (d.action = .invert → stationAct b n i true s = (s.modLine d.line fun l => { l with latch := !l.latch }, .fired)) ∧
    (d.action = .pulse → d.lengthKind = .distance → atOrBeyond s.lei.reach target = true →
      stationAct b n i true s = (s, .late)) ∧
    (d.action = .pulse → d.lengthKind = .distance → atOrBeyond s.lei.reach target = false →
      (r.on = false → stationAct b n i true s =
        (s.modStationRun b n fun _ => started .distance target deadline r.lastEnd, .fired)) ∧
      (r.on = true → r.pulseLine = d.line → r.endKind = .distance → stationAct b n i true s =
        (s.modStationRun b n fun _ => { r with
          endTarget := if atOrBeyond target r.endTarget then target else r.endTarget
          maxOn := if d.maxOn = 0 then r.maxOn else deadline }, .merged)) ∧
      (r.on = true → (r.pulseLine ≠ d.line ∨ r.endKind ≠ .distance) → stationAct b n i true s =
        (s.modStationRun b n fun _ => started .distance target deadline .superseded, .fired))) ∧
    (d.action = .pulse → d.lengthKind = .time →
      let e := s.partTime + BitVec.ofNat 32 d.length
      (r.on = false → stationAct b n i true s = (s.modStationRun b n fun _ => started .time e none r.lastEnd, .fired)) ∧
      (r.on = true → r.pulseLine = d.line → r.endKind = .time → stationAct b n i true s =
        (s.modStationRun b n fun _ => { r with endTarget := if atOrBeyond e r.endTarget then e else r.endTarget },
          .merged)) ∧
      (r.on = true → (r.pulseLine ≠ d.line ∨ r.endKind ≠ .time) → stationAct b n i true s =
        (s.modStationRun b n fun _ => started .time e none .superseded, .fired)))) ∧
  (∀ (b : Fin 2) (n : Fin 16) (s : State),
    let d := (s.station b n).cfg
    (s.lei.valid = true → d.leadTime ≠ 0 → s.lei.interval ≠ 0 →
      s.lead b n = min (d.leadTime * 32 * 2 ^ s.lei.cfg.s / s.lei.interval) d.leadLimit) ∧
    ((s.lei.valid = false ∨ d.leadTime = 0) → s.lead b n = 0) ∧ s.lead b n ≤ d.leadLimit) ∧
  (∀ (d : StationDef) (i : Item), d.evaluate i = match d.condition with
    | .always => some true
    | .accepted => if i.closed = true then some (decide (i.verdict = .accept)) else none
    | .rejected => if i.closed = true then some (decide (i.verdict = .reject)) else none
    | .windowPass => if i.windows[d.window] = .pending then none else some (decide (i.windows[d.window] = .pass))
    | .windowFail => if i.windows[d.window] = .pending then none
      else some (decide (i.windows[d.window] = .fail ∨ i.windows[d.window] = .missed))) ∧
  (∀ a b : Pos, atOrBeyond a b = decide ((a - b).toNat < 2 ^ 31)) ∧
  (∀ (b : Fin 2) (n : Fin 16) (k : Nat) (s : State),
    let cursor : Option Item := (s.station b n).run.cursor.bind fun no => s.iq.items.find? fun i => i.no == no
    stationLoop b n 0 s = s ∧
    ((s.running = false ∨ cursor = none) → stationLoop b n (k + 1) s = s ∧ releaseStation b n s = s) ∧
    ∀ i, s.running = true → cursor = some i →
      let d := (s.station b n).cfg
      let due := atOrBeyond s.lei.reach (i.mark + BitVec.ofNat 32 d.offset - BitVec.ofNat 32 (s.lead b n))
      (due = false → stationLoop b n (k + 1) s = s) ∧
      (due = true → d.evaluate i = none → stationLoop b n (k + 1) s = s.modStationRun b n fun r => { r with held := true }) ∧
      (∀ c, due = true → d.evaluate i = some c → stationLoop b n (k + 1) s = stationLoop b n k (decideStation b n i c s)) ∧
      (d.evaluate i = none → releaseStation b n s = s) ∧
      ∀ c, d.evaluate i = some c →
        let u := decideStation b n i c s
        releaseStation b n s = stationLoop b n (u.iq.items.length + 1) u) ∧
  (∀ (b : Fin 2) (n : Fin 16) (c : Bool) (s : State) (before : List Item) (i : Item) (after : List Item),
    s.iq.items = before ++ i :: after → (∀ j ∈ before, j.no ≠ i.no) →
    let a := stationAct b n i c s
    let written := a.1.modItem i.no fun j =>
      if j.stations[n] = .pending then { j with stations := j.stations.set n a.2 } else j
    decideStation b n i c s = (retireHeads (written.modItem i.no Item.decidedTest)).modStationRun b n fun r =>
      { r with cursor := (after.find? fun j => j.bank == b).map (·.no), held := false }) ∧
  (∀ (b : Fin 2) (no : ItemNo) (waits : StationDef → Bool) (s : State), ∃ ns : List (Fin 16),
    ns.Perm ((List.finRange 16).filter fun n => decide ((s.station b n).run.held = true ∧
      (s.station b n).run.cursor = some no ∧ waits (s.station b n).cfg = true)) ∧
    releaseHeld b no waits s = ns.foldl (fun u n => releaseStation b n u) s) ∧
  ∀ (b : Fin 2) (n : Fin 16) (note : Option NoticeBody) (s : State),
    let r := (s.station b n).run
    (Task.station b n).run note s =
      (if s.running = true then stationLoop b n (s.iq.items.length + 1) s else s) ∧
    (Task.pulseEnd b n).run note s =
      if s.running = true ∧ r.on = true ∧ r.endKind = .distance ∧ atOrBeyond s.lei.reach r.endTarget = true then
        s.modStationRun b n fun q => { q with on := false, maxOn := none, lastEnd := .target }
      else s

/-- A window that is due opens with the input's present state sampled, or is MISSED when the reach has passed its close point;
an open window at its close point gives FAIL for ANY and PASS for ALL; the rule resolves it earlier on what it has seen (R93,
R94, R95). At each advance of the reach the tests go on from item to item while each resolves (R95). An edge of the input of an
open window sets a seen flag and may resolve it (R94). A resolution writes the outcome in the place of PENDING, applies the
DECIDED test, keeps the outcome as the last one, closes the window, moves the cursor to the nearest item of the bank behind, and
lets the stations that are held on it decide (R41, R49, R70, R92, R97). That after a resolution, at an advance as at an edge, these
stations decide before the next item's opening test, where R97 allows either order, is the model's choice (log 6). -/
def Obligations.WindowOpensAndResolves : Prop :=
  (∀ (b : Fin 2) (w : Fin 4) (i : Item) (s : State),
    let d := (s.window b w).cfg
    let r := (s.window b w).run
    let start := i.mark + BitVec.ofNat 32 d.start
    let close := i.mark + BitVec.ofNat 32 (d.start + d.length)
    let seen := s.senseActive d.input
    let expected := match d.expected with
      | .active => seen
      | .inactive => !seen
    (r.opened = false → atOrBeyond s.lei.reach start = false → windowTest b w i s = (s, none)) ∧
    (r.opened = false → atOrBeyond s.lei.reach start = true → atOrBeyond s.lei.reach close = true →
      windowTest b w i s = (s.modWindowRun b w fun q => { q with
        opened := false, recItem := i.no, recStart := start, recClose := close, seenActive := false, seenInactive := false },
        some .missed)) ∧
    (r.opened = false → atOrBeyond s.lei.reach start = true → atOrBeyond s.lei.reach close = false →
      windowTest b w i s = (s.modWindowRun b w fun q => { q with
        opened := true, recItem := i.no, recStart := start, recClose := close, seenActive := seen, seenInactive := !seen },
        match d.rule with
        | .any => if expected then some .pass else none
        | .all => if expected then none else some .fail)) ∧
    (r.opened = true → atOrBeyond s.lei.reach r.recClose = false → windowTest b w i s = (s, none)) ∧
    (r.opened = true → atOrBeyond s.lei.reach r.recClose = true → windowTest b w i s = (s, match d.rule with
      | .any => some .fail
      | .all => some .pass))) ∧
  (∀ (b : Fin 2) (w : Fin 4) (o : WindowOutcome) (s : State) (before : List Item) (i : Item) (after : List Item),
    s.iq.items = before ++ i :: after → (∀ j ∈ before, j.no ≠ i.no) →
    let written := s.modItem i.no fun j => if j.windows[w] = .pending then { j with windows := j.windows.set w o } else j
    resolveWindow b w i o s =
      releaseHeld b i.no (fun d => decide ((d.condition = .windowPass ∨ d.condition = .windowFail) ∧ d.window = w))
        ((retireHeads (written.modItem i.no Item.decidedTest)).modWindowRun b w fun q =>
          { q with last := o, opened := false, cursor := (after.find? fun j => j.bank == b).map (·.no) })) ∧
  ∀ (b : Fin 2) (w : Fin 4) (k : Nat) (note : Option NoticeBody) (input : Fin 4) (active : Bool) (s : State),
    let d := (s.window b w).cfg
    let r := (s.window b w).run
    let cursor : Option Item := r.cursor.bind fun no => s.iq.items.find? fun i => i.no == no
    (Task.window b w).run note s = (if s.running = true then windowLoop b w (s.iq.items.length + 1) s else s) ∧
    windowLoop b w 0 s = s ∧
    ((s.running = false ∨ cursor = none) → windowLoop b w (k + 1) s = s) ∧
    (∀ i, s.running = true → cursor = some i →
      ((windowTest b w i s).2 = none → windowLoop b w (k + 1) s = (windowTest b w i s).1) ∧
      ∀ o, (windowTest b w i s).2 = some o →
        windowLoop b w (k + 1) s = windowLoop b w k (resolveWindow b w i o (windowTest b w i s).1)) ∧
    ((s.running = false ∨ r.opened = false ∨ d.input ≠ input) → (EdgeUser.window b w).take input active s = s) ∧
    (s.running = true → r.opened = true → d.input = input →
      let u := s.modWindowRun b w fun q =>
        { q with seenActive := q.seenActive || active, seenInactive := q.seenInactive || !active }
      let outcome : Option WindowOutcome := match d.rule, d.expected with
        | .any, .active => if r.seenActive = true ∨ active = true then some .pass else none
        | .any, .inactive => if r.seenInactive = true ∨ active = false then some .pass else none
        | .all, .active => if r.seenInactive = true ∨ active = false then some .fail else none
        | .all, .inactive => if r.seenActive = true ∨ active = true then some .fail else none
      ((outcome = none ∨ cursor = none) → (EdgeUser.window b w).take input active s = u) ∧
      ∀ o i, outcome = some o → cursor = some i →
        let v := resolveWindow b w i o u
        (EdgeUser.window b w).take input active s = windowLoop b w (v.iq.items.length + 1) v)

/-- R83, with Table 33 and the logical level of R81. -/
def Obligations.OutPinsFollowTheMode : Prop :=
  ∀ (s : State) (l : Fin 16),
    let level (active : Bool) : Bool := match (s.line l).polarity with
      | .activeHigh => active
      | .activeLow => !active
    (s.running = true → ((s.line l).latch = true ∨
        ∃ b n, (s.station b n).run.on = true ∧ (s.station b n).run.pulseLine = l) → s.outPin l = level true) ∧
    (s.running = true → (s.line l).latch = false →
      (∀ b n, (s.station b n).run.on = true → (s.station b n).run.pulseLine ≠ l) → s.outPin l = level false) ∧
    (s.run.mode = .configure → s.outPin l = level (decide ((s.line l).forced = .active))) ∧
    (s.run.mode = .fault → s.outPin l = level false)

/-- What becomes of an offered notice: class 0 ends the offer; else it takes the next number, the notice numbered 32768 before
it is discarded, and it joins a queue with room; a full queue gives up the newest notice of its lowest class to a higher one,
and discards a notice of no higher class (R138, R139, R142, R143). An offer by a block is that at the present part time, and
changes nothing else; an idle transmitter takes the notice at its offer or when the event is over, which is free (R144, R161, log
8). -/
def Obligations.OfferedNoticeIsQueuedOrShed : Prop :=
  (∀ (body : NoticeBody) (s : State),
    let u := s.withNtq (s.ntq.offer s.partTime body)
    s.offer body = if s.sched.noticeFirst = true then serve u else u) ∧
  ∀ (now : Time) (body : NoticeBody) (q : Ntq),
    let c := q.classes[body.kind.slot]
    let aged := q.queue.filter fun m => m.number != q.next - 32768#16
    let n : Notice := { number := q.next, cls := c, time := now, body := body }
    (c = 0 → q.offer now body = q) ∧
    (c ≠ 0 → aged.length < 32 → q.offer now body = { q with next := q.next + 1#16, queue := aged ++ [n] }) ∧
    (∀ before m after, c ≠ 0 → 32 ≤ aged.length → aged = before ++ m :: after → m.cls < c →
      (∀ k ∈ aged, m.cls ≤ k.cls) → (∀ k ∈ after, k.cls ≠ m.cls) →
      q.offer now body = { q with next := q.next + 1#16, queue := before ++ after ++ [n] }) ∧
    (c ≠ 0 → 32 ≤ aged.length → (∀ k ∈ aged, c ≤ k.cls) →
      q.offer now body = { q with next := q.next + 1#16, queue := aged })

/-! ### Conditions that every step keeps -/

/-- The machine after reset meets the conditions below. -/
def Obligations.ResetMeetsTheConditions : Prop :=
  State.reset.withinCapacity ∧ State.reset.banksLegal ∧ State.reset.runLegal ∧ State.reset.quietOutsideRun ∧
    State.reset.countsExact ∧ State.reset.actuatorsQuiet ∧ State.reset.positionSound ∧
    State.reset.numbersFollow ∧ State.reset.turningInRange

/-- The item, notice, request and response queues stay within their capacities, for every command. -/
def Obligations.CapacityKept : Prop :=
  ∀ s t : State, s.withinCapacity → s.detectorIdle → step s = .next t → t.withinCapacity

/-- Exactly one bank stays ACTIVE, a bank is ARMED only in RUN and STOPPING, the fault set and first fault agree with the mode,
and the drain deadline is armed only in STOPPING. -/
def Obligations.BanksAndModeKept : Prop :=
  ∀ s t : State, s.banksLegal → s.runLegal → s.detectorIdle → step s = .next t → t.banksLegal ∧ t.runLegal

/-- The detector stays IDLE outside RUN, the queue empty in CONFIGURE, and each reference count the number of queued items that
carry the bank. The item numbers run on in queue order up to the next number, none of them 0, so that within the capacity of the
queue (CapacityKept) the numbers present are distinct (R38, R39). -/
def Obligations.DetectorAndCountsKept : Prop :=
  (∀ s t : State, s.quietOutsideRun → s.countsExact → step s = .next t → t.quietOutsideRun ∧ t.countsExact) ∧
  (∀ s t : State, s.numbersFollow → s.detectorIdle → step s = .next t → t.numbersFollow) ∧
  ∀ s : State, s.numbersFollow → s.withinCapacity →
    (s.iq.items.Pairwise fun i j => i.no ≠ j.no) ∧ (∀ i ∈ s.iq.items, i.no ≠ 0#16) ∧ s.iq.next ≠ 0#16

/-- No pulse and no latch is on in CONFIGURE and FAULT, so that no actuator line is at its active level there but by a forced
level; and the position keeps its form, with the reach at the position in CONFIGURE and the turning point a value of the count
register. -/
def Obligations.ActuatorsAndPositionKept : Prop :=
  (∀ s t : State, s.actuatorsQuiet → s.positionSound → s.detectorIdle → step s = .next t →
    t.actuatorsQuiet ∧ t.positionSound) ∧
  ∀ s t : State, s.positionSound → s.turningInRange → s.detectorIdle → step s = .next t → t.turningInRange
end

