-- ==== Sys2Proof/Laws/State.lean ====
section
/-! SUPPORT. What each update of State leaves in each field, and the accessors over the updates. All by rfl. -/

namespace Sys2Proof.Machine

variable (s : State)

/-! ### withPending -/

@[simp] theorem State.withPending_pending (v : List Instr) : (s.withPending v).pending = v := rfl
@[simp] theorem State.withPending_partTime (v : List Instr) : (s.withPending v).partTime = s.partTime := rfl
@[simp] theorem State.withPending_fine (v : List Instr) : (s.withPending v).fine = s.fine := rfl
@[simp] theorem State.withPending_pins (v : List Instr) : (s.withPending v).pins = s.pins := rfl
@[simp] theorem State.withPending_samples (v : List Instr) : (s.withPending v).samples = s.samples := rfl
@[simp] theorem State.withPending_sched (v : List Instr) : (s.withPending v).sched = s.sched := rfl
@[simp] theorem State.withPending_lei (v : List Instr) : (s.withPending v).lei = s.lei := rfl
@[simp] theorem State.withPending_sns (v : List Instr) : (s.withPending v).sns = s.sns := rfl
@[simp] theorem State.withPending_mkd (v : List Instr) : (s.withPending v).mkd = s.mkd := rfl
@[simp] theorem State.withPending_iq (v : List Instr) : (s.withPending v).iq = s.iq := rfl
@[simp] theorem State.withPending_banks (v : List Instr) : (s.withPending v).banks = s.banks := rfl
@[simp] theorem State.withPending_act (v : List Instr) : (s.withPending v).act = s.act := rfl
@[simp] theorem State.withPending_run (v : List Instr) : (s.withPending v).run = s.run := rfl
@[simp] theorem State.withPending_ntq (v : List Instr) : (s.withPending v).ntq = s.ntq := rfl
@[simp] theorem State.withPending_slk (v : List Instr) : (s.withPending v).slk = s.slk := rfl
@[simp] theorem State.withPending_self : s.withPending s.pending = s := rfl
@[simp] theorem State.withPending_withPending (v w : List Instr) : (s.withPending v).withPending w = s.withPending w := rfl

/-! ### withPins -/

@[simp] theorem State.withPins_pending (v : Pins) : (s.withPins v).pending = s.pending := rfl
@[simp] theorem State.withPins_partTime (v : Pins) : (s.withPins v).partTime = s.partTime := rfl
@[simp] theorem State.withPins_fine (v : Pins) : (s.withPins v).fine = s.fine := rfl
@[simp] theorem State.withPins_pins (v : Pins) : (s.withPins v).pins = v := rfl
@[simp] theorem State.withPins_samples (v : Pins) : (s.withPins v).samples = s.samples := rfl
@[simp] theorem State.withPins_sched (v : Pins) : (s.withPins v).sched = s.sched := rfl
@[simp] theorem State.withPins_lei (v : Pins) : (s.withPins v).lei = s.lei := rfl
@[simp] theorem State.withPins_sns (v : Pins) : (s.withPins v).sns = s.sns := rfl
@[simp] theorem State.withPins_mkd (v : Pins) : (s.withPins v).mkd = s.mkd := rfl
@[simp] theorem State.withPins_iq (v : Pins) : (s.withPins v).iq = s.iq := rfl
@[simp] theorem State.withPins_banks (v : Pins) : (s.withPins v).banks = s.banks := rfl
@[simp] theorem State.withPins_act (v : Pins) : (s.withPins v).act = s.act := rfl
@[simp] theorem State.withPins_run (v : Pins) : (s.withPins v).run = s.run := rfl
@[simp] theorem State.withPins_ntq (v : Pins) : (s.withPins v).ntq = s.ntq := rfl
@[simp] theorem State.withPins_slk (v : Pins) : (s.withPins v).slk = s.slk := rfl
@[simp] theorem State.withPins_self : s.withPins s.pins = s := rfl
@[simp] theorem State.withPins_withPins (v w : Pins) : (s.withPins v).withPins w = s.withPins w := rfl

/-! ### withSamples -/

@[simp] theorem State.withSamples_pending (v : List Pins) : (s.withSamples v).pending = s.pending := rfl
@[simp] theorem State.withSamples_partTime (v : List Pins) : (s.withSamples v).partTime = s.partTime := rfl
@[simp] theorem State.withSamples_fine (v : List Pins) : (s.withSamples v).fine = s.fine := rfl
@[simp] theorem State.withSamples_pins (v : List Pins) : (s.withSamples v).pins = s.pins := rfl
@[simp] theorem State.withSamples_samples (v : List Pins) : (s.withSamples v).samples = v := rfl
@[simp] theorem State.withSamples_sched (v : List Pins) : (s.withSamples v).sched = s.sched := rfl
@[simp] theorem State.withSamples_lei (v : List Pins) : (s.withSamples v).lei = s.lei := rfl
@[simp] theorem State.withSamples_sns (v : List Pins) : (s.withSamples v).sns = s.sns := rfl
@[simp] theorem State.withSamples_mkd (v : List Pins) : (s.withSamples v).mkd = s.mkd := rfl
@[simp] theorem State.withSamples_iq (v : List Pins) : (s.withSamples v).iq = s.iq := rfl
@[simp] theorem State.withSamples_banks (v : List Pins) : (s.withSamples v).banks = s.banks := rfl
@[simp] theorem State.withSamples_act (v : List Pins) : (s.withSamples v).act = s.act := rfl
@[simp] theorem State.withSamples_run (v : List Pins) : (s.withSamples v).run = s.run := rfl
@[simp] theorem State.withSamples_ntq (v : List Pins) : (s.withSamples v).ntq = s.ntq := rfl
@[simp] theorem State.withSamples_slk (v : List Pins) : (s.withSamples v).slk = s.slk := rfl
@[simp] theorem State.withSamples_self : s.withSamples s.samples = s := rfl
@[simp] theorem State.withSamples_withSamples (v w : List Pins) : (s.withSamples v).withSamples w = s.withSamples w := rfl

/-! ### withLei -/

@[simp] theorem State.withLei_pending (v : Lei) : (s.withLei v).pending = s.pending := rfl
@[simp] theorem State.withLei_partTime (v : Lei) : (s.withLei v).partTime = s.partTime := rfl
@[simp] theorem State.withLei_fine (v : Lei) : (s.withLei v).fine = s.fine := rfl
@[simp] theorem State.withLei_pins (v : Lei) : (s.withLei v).pins = s.pins := rfl
@[simp] theorem State.withLei_samples (v : Lei) : (s.withLei v).samples = s.samples := rfl
@[simp] theorem State.withLei_sched (v : Lei) : (s.withLei v).sched = s.sched := rfl
@[simp] theorem State.withLei_lei (v : Lei) : (s.withLei v).lei = v := rfl
@[simp] theorem State.withLei_sns (v : Lei) : (s.withLei v).sns = s.sns := rfl
@[simp] theorem State.withLei_mkd (v : Lei) : (s.withLei v).mkd = s.mkd := rfl
@[simp] theorem State.withLei_iq (v : Lei) : (s.withLei v).iq = s.iq := rfl
@[simp] theorem State.withLei_banks (v : Lei) : (s.withLei v).banks = s.banks := rfl
@[simp] theorem State.withLei_act (v : Lei) : (s.withLei v).act = s.act := rfl
@[simp] theorem State.withLei_run (v : Lei) : (s.withLei v).run = s.run := rfl
@[simp] theorem State.withLei_ntq (v : Lei) : (s.withLei v).ntq = s.ntq := rfl
@[simp] theorem State.withLei_slk (v : Lei) : (s.withLei v).slk = s.slk := rfl
@[simp] theorem State.withLei_self : s.withLei s.lei = s := rfl
@[simp] theorem State.withLei_withLei (v w : Lei) : (s.withLei v).withLei w = s.withLei w := rfl

/-! ### withSns -/

@[simp] theorem State.withSns_pending (v : Vector SenseInput 4) : (s.withSns v).pending = s.pending := rfl
@[simp] theorem State.withSns_partTime (v : Vector SenseInput 4) : (s.withSns v).partTime = s.partTime := rfl
@[simp] theorem State.withSns_fine (v : Vector SenseInput 4) : (s.withSns v).fine = s.fine := rfl
@[simp] theorem State.withSns_pins (v : Vector SenseInput 4) : (s.withSns v).pins = s.pins := rfl
@[simp] theorem State.withSns_samples (v : Vector SenseInput 4) : (s.withSns v).samples = s.samples := rfl
@[simp] theorem State.withSns_sched (v : Vector SenseInput 4) : (s.withSns v).sched = s.sched := rfl
@[simp] theorem State.withSns_lei (v : Vector SenseInput 4) : (s.withSns v).lei = s.lei := rfl
@[simp] theorem State.withSns_sns (v : Vector SenseInput 4) : (s.withSns v).sns = v := rfl
@[simp] theorem State.withSns_mkd (v : Vector SenseInput 4) : (s.withSns v).mkd = s.mkd := rfl
@[simp] theorem State.withSns_iq (v : Vector SenseInput 4) : (s.withSns v).iq = s.iq := rfl
@[simp] theorem State.withSns_banks (v : Vector SenseInput 4) : (s.withSns v).banks = s.banks := rfl
@[simp] theorem State.withSns_act (v : Vector SenseInput 4) : (s.withSns v).act = s.act := rfl
@[simp] theorem State.withSns_run (v : Vector SenseInput 4) : (s.withSns v).run = s.run := rfl
@[simp] theorem State.withSns_ntq (v : Vector SenseInput 4) : (s.withSns v).ntq = s.ntq := rfl
@[simp] theorem State.withSns_slk (v : Vector SenseInput 4) : (s.withSns v).slk = s.slk := rfl
@[simp] theorem State.withSns_self : s.withSns s.sns = s := rfl
@[simp] theorem State.withSns_withSns (v w : Vector SenseInput 4) : (s.withSns v).withSns w = s.withSns w := rfl

/-! ### withMkd -/

@[simp] theorem State.withMkd_pending (v : Mkd) : (s.withMkd v).pending = s.pending := rfl
@[simp] theorem State.withMkd_partTime (v : Mkd) : (s.withMkd v).partTime = s.partTime := rfl
@[simp] theorem State.withMkd_fine (v : Mkd) : (s.withMkd v).fine = s.fine := rfl
@[simp] theorem State.withMkd_pins (v : Mkd) : (s.withMkd v).pins = s.pins := rfl
@[simp] theorem State.withMkd_samples (v : Mkd) : (s.withMkd v).samples = s.samples := rfl
@[simp] theorem State.withMkd_sched (v : Mkd) : (s.withMkd v).sched = s.sched := rfl
@[simp] theorem State.withMkd_lei (v : Mkd) : (s.withMkd v).lei = s.lei := rfl
@[simp] theorem State.withMkd_sns (v : Mkd) : (s.withMkd v).sns = s.sns := rfl
@[simp] theorem State.withMkd_mkd (v : Mkd) : (s.withMkd v).mkd = v := rfl
@[simp] theorem State.withMkd_iq (v : Mkd) : (s.withMkd v).iq = s.iq := rfl
@[simp] theorem State.withMkd_banks (v : Mkd) : (s.withMkd v).banks = s.banks := rfl
@[simp] theorem State.withMkd_act (v : Mkd) : (s.withMkd v).act = s.act := rfl
@[simp] theorem State.withMkd_run (v : Mkd) : (s.withMkd v).run = s.run := rfl
@[simp] theorem State.withMkd_ntq (v : Mkd) : (s.withMkd v).ntq = s.ntq := rfl
@[simp] theorem State.withMkd_slk (v : Mkd) : (s.withMkd v).slk = s.slk := rfl
@[simp] theorem State.withMkd_self : s.withMkd s.mkd = s := rfl
@[simp] theorem State.withMkd_withMkd (v w : Mkd) : (s.withMkd v).withMkd w = s.withMkd w := rfl

/-! ### withIq -/

@[simp] theorem State.withIq_pending (v : Iq) : (s.withIq v).pending = s.pending := rfl
@[simp] theorem State.withIq_partTime (v : Iq) : (s.withIq v).partTime = s.partTime := rfl
@[simp] theorem State.withIq_fine (v : Iq) : (s.withIq v).fine = s.fine := rfl
@[simp] theorem State.withIq_pins (v : Iq) : (s.withIq v).pins = s.pins := rfl
@[simp] theorem State.withIq_samples (v : Iq) : (s.withIq v).samples = s.samples := rfl
@[simp] theorem State.withIq_sched (v : Iq) : (s.withIq v).sched = s.sched := rfl
@[simp] theorem State.withIq_lei (v : Iq) : (s.withIq v).lei = s.lei := rfl
@[simp] theorem State.withIq_sns (v : Iq) : (s.withIq v).sns = s.sns := rfl
@[simp] theorem State.withIq_mkd (v : Iq) : (s.withIq v).mkd = s.mkd := rfl
@[simp] theorem State.withIq_iq (v : Iq) : (s.withIq v).iq = v := rfl
@[simp] theorem State.withIq_banks (v : Iq) : (s.withIq v).banks = s.banks := rfl
@[simp] theorem State.withIq_act (v : Iq) : (s.withIq v).act = s.act := rfl
@[simp] theorem State.withIq_run (v : Iq) : (s.withIq v).run = s.run := rfl
@[simp] theorem State.withIq_ntq (v : Iq) : (s.withIq v).ntq = s.ntq := rfl
@[simp] theorem State.withIq_slk (v : Iq) : (s.withIq v).slk = s.slk := rfl
@[simp] theorem State.withIq_self : s.withIq s.iq = s := rfl
@[simp] theorem State.withIq_withIq (v w : Iq) : (s.withIq v).withIq w = s.withIq w := rfl

/-! ### withBanks -/

@[simp] theorem State.withBanks_pending (v : Vector Bank 2) : (s.withBanks v).pending = s.pending := rfl
@[simp] theorem State.withBanks_partTime (v : Vector Bank 2) : (s.withBanks v).partTime = s.partTime := rfl
@[simp] theorem State.withBanks_fine (v : Vector Bank 2) : (s.withBanks v).fine = s.fine := rfl
@[simp] theorem State.withBanks_pins (v : Vector Bank 2) : (s.withBanks v).pins = s.pins := rfl
@[simp] theorem State.withBanks_samples (v : Vector Bank 2) : (s.withBanks v).samples = s.samples := rfl
@[simp] theorem State.withBanks_sched (v : Vector Bank 2) : (s.withBanks v).sched = s.sched := rfl
@[simp] theorem State.withBanks_lei (v : Vector Bank 2) : (s.withBanks v).lei = s.lei := rfl
@[simp] theorem State.withBanks_sns (v : Vector Bank 2) : (s.withBanks v).sns = s.sns := rfl
@[simp] theorem State.withBanks_mkd (v : Vector Bank 2) : (s.withBanks v).mkd = s.mkd := rfl
@[simp] theorem State.withBanks_iq (v : Vector Bank 2) : (s.withBanks v).iq = s.iq := rfl
@[simp] theorem State.withBanks_banks (v : Vector Bank 2) : (s.withBanks v).banks = v := rfl
@[simp] theorem State.withBanks_act (v : Vector Bank 2) : (s.withBanks v).act = s.act := rfl
@[simp] theorem State.withBanks_run (v : Vector Bank 2) : (s.withBanks v).run = s.run := rfl
@[simp] theorem State.withBanks_ntq (v : Vector Bank 2) : (s.withBanks v).ntq = s.ntq := rfl
@[simp] theorem State.withBanks_slk (v : Vector Bank 2) : (s.withBanks v).slk = s.slk := rfl
@[simp] theorem State.withBanks_self : s.withBanks s.banks = s := rfl
@[simp] theorem State.withBanks_withBanks (v w : Vector Bank 2) : (s.withBanks v).withBanks w = s.withBanks w := rfl

/-! ### withAct -/

@[simp] theorem State.withAct_pending (v : Vector Line 16) : (s.withAct v).pending = s.pending := rfl
@[simp] theorem State.withAct_partTime (v : Vector Line 16) : (s.withAct v).partTime = s.partTime := rfl
@[simp] theorem State.withAct_fine (v : Vector Line 16) : (s.withAct v).fine = s.fine := rfl
@[simp] theorem State.withAct_pins (v : Vector Line 16) : (s.withAct v).pins = s.pins := rfl
@[simp] theorem State.withAct_samples (v : Vector Line 16) : (s.withAct v).samples = s.samples := rfl
@[simp] theorem State.withAct_sched (v : Vector Line 16) : (s.withAct v).sched = s.sched := rfl
@[simp] theorem State.withAct_lei (v : Vector Line 16) : (s.withAct v).lei = s.lei := rfl
@[simp] theorem State.withAct_sns (v : Vector Line 16) : (s.withAct v).sns = s.sns := rfl
@[simp] theorem State.withAct_mkd (v : Vector Line 16) : (s.withAct v).mkd = s.mkd := rfl
@[simp] theorem State.withAct_iq (v : Vector Line 16) : (s.withAct v).iq = s.iq := rfl
@[simp] theorem State.withAct_banks (v : Vector Line 16) : (s.withAct v).banks = s.banks := rfl
@[simp] theorem State.withAct_act (v : Vector Line 16) : (s.withAct v).act = v := rfl
@[simp] theorem State.withAct_run (v : Vector Line 16) : (s.withAct v).run = s.run := rfl
@[simp] theorem State.withAct_ntq (v : Vector Line 16) : (s.withAct v).ntq = s.ntq := rfl
@[simp] theorem State.withAct_slk (v : Vector Line 16) : (s.withAct v).slk = s.slk := rfl
@[simp] theorem State.withAct_self : s.withAct s.act = s := rfl
@[simp] theorem State.withAct_withAct (v w : Vector Line 16) : (s.withAct v).withAct w = s.withAct w := rfl

/-! ### withRun -/

@[simp] theorem State.withRun_pending (v : Run) : (s.withRun v).pending = s.pending := rfl
@[simp] theorem State.withRun_partTime (v : Run) : (s.withRun v).partTime = s.partTime := rfl
@[simp] theorem State.withRun_fine (v : Run) : (s.withRun v).fine = s.fine := rfl
@[simp] theorem State.withRun_pins (v : Run) : (s.withRun v).pins = s.pins := rfl
@[simp] theorem State.withRun_samples (v : Run) : (s.withRun v).samples = s.samples := rfl
@[simp] theorem State.withRun_sched (v : Run) : (s.withRun v).sched = s.sched := rfl
@[simp] theorem State.withRun_lei (v : Run) : (s.withRun v).lei = s.lei := rfl
@[simp] theorem State.withRun_sns (v : Run) : (s.withRun v).sns = s.sns := rfl
@[simp] theorem State.withRun_mkd (v : Run) : (s.withRun v).mkd = s.mkd := rfl
@[simp] theorem State.withRun_iq (v : Run) : (s.withRun v).iq = s.iq := rfl
@[simp] theorem State.withRun_banks (v : Run) : (s.withRun v).banks = s.banks := rfl
@[simp] theorem State.withRun_act (v : Run) : (s.withRun v).act = s.act := rfl
@[simp] theorem State.withRun_run (v : Run) : (s.withRun v).run = v := rfl
@[simp] theorem State.withRun_ntq (v : Run) : (s.withRun v).ntq = s.ntq := rfl
@[simp] theorem State.withRun_slk (v : Run) : (s.withRun v).slk = s.slk := rfl
@[simp] theorem State.withRun_self : s.withRun s.run = s := rfl
@[simp] theorem State.withRun_withRun (v w : Run) : (s.withRun v).withRun w = s.withRun w := rfl

/-! ### withNtq -/

@[simp] theorem State.withNtq_pending (v : Ntq) : (s.withNtq v).pending = s.pending := rfl
@[simp] theorem State.withNtq_partTime (v : Ntq) : (s.withNtq v).partTime = s.partTime := rfl
@[simp] theorem State.withNtq_fine (v : Ntq) : (s.withNtq v).fine = s.fine := rfl
@[simp] theorem State.withNtq_pins (v : Ntq) : (s.withNtq v).pins = s.pins := rfl
@[simp] theorem State.withNtq_samples (v : Ntq) : (s.withNtq v).samples = s.samples := rfl
@[simp] theorem State.withNtq_sched (v : Ntq) : (s.withNtq v).sched = s.sched := rfl
@[simp] theorem State.withNtq_lei (v : Ntq) : (s.withNtq v).lei = s.lei := rfl
@[simp] theorem State.withNtq_sns (v : Ntq) : (s.withNtq v).sns = s.sns := rfl
@[simp] theorem State.withNtq_mkd (v : Ntq) : (s.withNtq v).mkd = s.mkd := rfl
@[simp] theorem State.withNtq_iq (v : Ntq) : (s.withNtq v).iq = s.iq := rfl
@[simp] theorem State.withNtq_banks (v : Ntq) : (s.withNtq v).banks = s.banks := rfl
@[simp] theorem State.withNtq_act (v : Ntq) : (s.withNtq v).act = s.act := rfl
@[simp] theorem State.withNtq_run (v : Ntq) : (s.withNtq v).run = s.run := rfl
@[simp] theorem State.withNtq_ntq (v : Ntq) : (s.withNtq v).ntq = v := rfl
@[simp] theorem State.withNtq_slk (v : Ntq) : (s.withNtq v).slk = s.slk := rfl
@[simp] theorem State.withNtq_self : s.withNtq s.ntq = s := rfl
@[simp] theorem State.withNtq_withNtq (v w : Ntq) : (s.withNtq v).withNtq w = s.withNtq w := rfl

/-! ### withSlk -/

@[simp] theorem State.withSlk_pending (v : Slk) : (s.withSlk v).pending = s.pending := rfl
@[simp] theorem State.withSlk_partTime (v : Slk) : (s.withSlk v).partTime = s.partTime := rfl
@[simp] theorem State.withSlk_fine (v : Slk) : (s.withSlk v).fine = s.fine := rfl
@[simp] theorem State.withSlk_pins (v : Slk) : (s.withSlk v).pins = s.pins := rfl
@[simp] theorem State.withSlk_samples (v : Slk) : (s.withSlk v).samples = s.samples := rfl
@[simp] theorem State.withSlk_sched (v : Slk) : (s.withSlk v).sched = s.sched := rfl
@[simp] theorem State.withSlk_lei (v : Slk) : (s.withSlk v).lei = s.lei := rfl
@[simp] theorem State.withSlk_sns (v : Slk) : (s.withSlk v).sns = s.sns := rfl
@[simp] theorem State.withSlk_mkd (v : Slk) : (s.withSlk v).mkd = s.mkd := rfl
@[simp] theorem State.withSlk_iq (v : Slk) : (s.withSlk v).iq = s.iq := rfl
@[simp] theorem State.withSlk_banks (v : Slk) : (s.withSlk v).banks = s.banks := rfl
@[simp] theorem State.withSlk_act (v : Slk) : (s.withSlk v).act = s.act := rfl
@[simp] theorem State.withSlk_run (v : Slk) : (s.withSlk v).run = s.run := rfl
@[simp] theorem State.withSlk_ntq (v : Slk) : (s.withSlk v).ntq = s.ntq := rfl
@[simp] theorem State.withSlk_slk (v : Slk) : (s.withSlk v).slk = v := rfl
@[simp] theorem State.withSlk_self : s.withSlk s.slk = s := rfl
@[simp] theorem State.withSlk_withSlk (v w : Slk) : (s.withSlk v).withSlk w = s.withSlk w := rfl

/-! ### withClock -/

@[simp] theorem State.withClock_pending (t : Time) (f : Nat) : (s.withClock t f).pending = s.pending := rfl
@[simp] theorem State.withClock_partTime (t : Time) (f : Nat) : (s.withClock t f).partTime = t := rfl
@[simp] theorem State.withClock_fine (t : Time) (f : Nat) : (s.withClock t f).fine = f := rfl
@[simp] theorem State.withClock_pins (t : Time) (f : Nat) : (s.withClock t f).pins = s.pins := rfl
@[simp] theorem State.withClock_samples (t : Time) (f : Nat) : (s.withClock t f).samples = s.samples := rfl
@[simp] theorem State.withClock_sched (t : Time) (f : Nat) : (s.withClock t f).sched = s.sched := rfl
@[simp] theorem State.withClock_lei (t : Time) (f : Nat) : (s.withClock t f).lei = s.lei := rfl
@[simp] theorem State.withClock_sns (t : Time) (f : Nat) : (s.withClock t f).sns = s.sns := rfl
@[simp] theorem State.withClock_mkd (t : Time) (f : Nat) : (s.withClock t f).mkd = s.mkd := rfl
@[simp] theorem State.withClock_iq (t : Time) (f : Nat) : (s.withClock t f).iq = s.iq := rfl
@[simp] theorem State.withClock_banks (t : Time) (f : Nat) : (s.withClock t f).banks = s.banks := rfl
@[simp] theorem State.withClock_act (t : Time) (f : Nat) : (s.withClock t f).act = s.act := rfl
@[simp] theorem State.withClock_run (t : Time) (f : Nat) : (s.withClock t f).run = s.run := rfl
@[simp] theorem State.withClock_ntq (t : Time) (f : Nat) : (s.withClock t f).ntq = s.ntq := rfl
@[simp] theorem State.withClock_slk (t : Time) (f : Nat) : (s.withClock t f).slk = s.slk := rfl

/-! ### Accessors over updates that do not touch them -/

@[simp] theorem State.withPending_bank (v : List Instr) (b : Fin 2) : (s.withPending v).bank b = s.bank b := rfl
@[simp] theorem State.withPins_bank (v : Pins) (b : Fin 2) : (s.withPins v).bank b = s.bank b := rfl
@[simp] theorem State.withSamples_bank (v : List Pins) (b : Fin 2) : (s.withSamples v).bank b = s.bank b := rfl
@[simp] theorem State.withLei_bank (v : Lei) (b : Fin 2) : (s.withLei v).bank b = s.bank b := rfl
@[simp] theorem State.withSns_bank (v : Vector SenseInput 4) (b : Fin 2) : (s.withSns v).bank b = s.bank b := rfl
@[simp] theorem State.withMkd_bank (v : Mkd) (b : Fin 2) : (s.withMkd v).bank b = s.bank b := rfl
@[simp] theorem State.withIq_bank (v : Iq) (b : Fin 2) : (s.withIq v).bank b = s.bank b := rfl
@[simp] theorem State.withAct_bank (v : Vector Line 16) (b : Fin 2) : (s.withAct v).bank b = s.bank b := rfl
@[simp] theorem State.withRun_bank (v : Run) (b : Fin 2) : (s.withRun v).bank b = s.bank b := rfl
@[simp] theorem State.withNtq_bank (v : Ntq) (b : Fin 2) : (s.withNtq v).bank b = s.bank b := rfl
@[simp] theorem State.withSlk_bank (v : Slk) (b : Fin 2) : (s.withSlk v).bank b = s.bank b := rfl

@[simp] theorem State.withPending_station (v : List Instr) (b : Fin 2) (n : Fin 16) : (s.withPending v).station b n = s.station b n := rfl
@[simp] theorem State.withPins_station (v : Pins) (b : Fin 2) (n : Fin 16) : (s.withPins v).station b n = s.station b n := rfl
@[simp] theorem State.withSamples_station (v : List Pins) (b : Fin 2) (n : Fin 16) : (s.withSamples v).station b n = s.station b n := rfl
@[simp] theorem State.withLei_station (v : Lei) (b : Fin 2) (n : Fin 16) : (s.withLei v).station b n = s.station b n := rfl
@[simp] theorem State.withSns_station (v : Vector SenseInput 4) (b : Fin 2) (n : Fin 16) : (s.withSns v).station b n = s.station b n := rfl
@[simp] theorem State.withMkd_station (v : Mkd) (b : Fin 2) (n : Fin 16) : (s.withMkd v).station b n = s.station b n := rfl
@[simp] theorem State.withIq_station (v : Iq) (b : Fin 2) (n : Fin 16) : (s.withIq v).station b n = s.station b n := rfl
@[simp] theorem State.withAct_station (v : Vector Line 16) (b : Fin 2) (n : Fin 16) : (s.withAct v).station b n = s.station b n := rfl
@[simp] theorem State.withRun_station (v : Run) (b : Fin 2) (n : Fin 16) : (s.withRun v).station b n = s.station b n := rfl
@[simp] theorem State.withNtq_station (v : Ntq) (b : Fin 2) (n : Fin 16) : (s.withNtq v).station b n = s.station b n := rfl
@[simp] theorem State.withSlk_station (v : Slk) (b : Fin 2) (n : Fin 16) : (s.withSlk v).station b n = s.station b n := rfl

@[simp] theorem State.withPending_window (v : List Instr) (b : Fin 2) (w : Fin 4) : (s.withPending v).window b w = s.window b w := rfl
@[simp] theorem State.withPins_window (v : Pins) (b : Fin 2) (w : Fin 4) : (s.withPins v).window b w = s.window b w := rfl
@[simp] theorem State.withSamples_window (v : List Pins) (b : Fin 2) (w : Fin 4) : (s.withSamples v).window b w = s.window b w := rfl
@[simp] theorem State.withLei_window (v : Lei) (b : Fin 2) (w : Fin 4) : (s.withLei v).window b w = s.window b w := rfl
@[simp] theorem State.withSns_window (v : Vector SenseInput 4) (b : Fin 2) (w : Fin 4) : (s.withSns v).window b w = s.window b w := rfl
@[simp] theorem State.withMkd_window (v : Mkd) (b : Fin 2) (w : Fin 4) : (s.withMkd v).window b w = s.window b w := rfl
@[simp] theorem State.withIq_window (v : Iq) (b : Fin 2) (w : Fin 4) : (s.withIq v).window b w = s.window b w := rfl
@[simp] theorem State.withAct_window (v : Vector Line 16) (b : Fin 2) (w : Fin 4) : (s.withAct v).window b w = s.window b w := rfl
@[simp] theorem State.withRun_window (v : Run) (b : Fin 2) (w : Fin 4) : (s.withRun v).window b w = s.window b w := rfl
@[simp] theorem State.withNtq_window (v : Ntq) (b : Fin 2) (w : Fin 4) : (s.withNtq v).window b w = s.window b w := rfl
@[simp] theorem State.withSlk_window (v : Slk) (b : Fin 2) (w : Fin 4) : (s.withSlk v).window b w = s.window b w := rfl

@[simp] theorem State.withPending_line (v : List Instr) (k : Fin 16) : (s.withPending v).line k = s.line k := rfl
@[simp] theorem State.withPins_line (v : Pins) (k : Fin 16) : (s.withPins v).line k = s.line k := rfl
@[simp] theorem State.withSamples_line (v : List Pins) (k : Fin 16) : (s.withSamples v).line k = s.line k := rfl
@[simp] theorem State.withLei_line (v : Lei) (k : Fin 16) : (s.withLei v).line k = s.line k := rfl
@[simp] theorem State.withSns_line (v : Vector SenseInput 4) (k : Fin 16) : (s.withSns v).line k = s.line k := rfl
@[simp] theorem State.withMkd_line (v : Mkd) (k : Fin 16) : (s.withMkd v).line k = s.line k := rfl
@[simp] theorem State.withIq_line (v : Iq) (k : Fin 16) : (s.withIq v).line k = s.line k := rfl
@[simp] theorem State.withBanks_line (v : Vector Bank 2) (k : Fin 16) : (s.withBanks v).line k = s.line k := rfl
@[simp] theorem State.withRun_line (v : Run) (k : Fin 16) : (s.withRun v).line k = s.line k := rfl
@[simp] theorem State.withNtq_line (v : Ntq) (k : Fin 16) : (s.withNtq v).line k = s.line k := rfl
@[simp] theorem State.withSlk_line (v : Slk) (k : Fin 16) : (s.withSlk v).line k = s.line k := rfl

@[simp] theorem State.withPending_running (v : List Instr) : (s.withPending v).running = s.running := rfl
@[simp] theorem State.withPins_running (v : Pins) : (s.withPins v).running = s.running := rfl
@[simp] theorem State.withSamples_running (v : List Pins) : (s.withSamples v).running = s.running := rfl
@[simp] theorem State.withLei_running (v : Lei) : (s.withLei v).running = s.running := rfl
@[simp] theorem State.withSns_running (v : Vector SenseInput 4) : (s.withSns v).running = s.running := rfl
@[simp] theorem State.withMkd_running (v : Mkd) : (s.withMkd v).running = s.running := rfl
@[simp] theorem State.withIq_running (v : Iq) : (s.withIq v).running = s.running := rfl
@[simp] theorem State.withBanks_running (v : Vector Bank 2) : (s.withBanks v).running = s.running := rfl
@[simp] theorem State.withAct_running (v : Vector Line 16) : (s.withAct v).running = s.running := rfl
@[simp] theorem State.withNtq_running (v : Ntq) : (s.withNtq v).running = s.running := rfl
@[simp] theorem State.withSlk_running (v : Slk) : (s.withSlk v).running = s.running := rfl

@[simp] theorem State.withPending_headNo (v : List Instr) : (s.withPending v).headNo = s.headNo := rfl
@[simp] theorem State.withPins_headNo (v : Pins) : (s.withPins v).headNo = s.headNo := rfl
@[simp] theorem State.withSamples_headNo (v : List Pins) : (s.withSamples v).headNo = s.headNo := rfl
@[simp] theorem State.withLei_headNo (v : Lei) : (s.withLei v).headNo = s.headNo := rfl
@[simp] theorem State.withSns_headNo (v : Vector SenseInput 4) : (s.withSns v).headNo = s.headNo := rfl
@[simp] theorem State.withMkd_headNo (v : Mkd) : (s.withMkd v).headNo = s.headNo := rfl
@[simp] theorem State.withBanks_headNo (v : Vector Bank 2) : (s.withBanks v).headNo = s.headNo := rfl
@[simp] theorem State.withAct_headNo (v : Vector Line 16) : (s.withAct v).headNo = s.headNo := rfl
@[simp] theorem State.withRun_headNo (v : Run) : (s.withRun v).headNo = s.headNo := rfl
@[simp] theorem State.withNtq_headNo (v : Ntq) : (s.withNtq v).headNo = s.headNo := rfl
@[simp] theorem State.withSlk_headNo (v : Slk) : (s.withSlk v).headNo = s.headNo := rfl

@[simp] theorem State.withPending_tailNo (v : List Instr) : (s.withPending v).tailNo = s.tailNo := rfl
@[simp] theorem State.withPins_tailNo (v : Pins) : (s.withPins v).tailNo = s.tailNo := rfl
@[simp] theorem State.withSamples_tailNo (v : List Pins) : (s.withSamples v).tailNo = s.tailNo := rfl
@[simp] theorem State.withLei_tailNo (v : Lei) : (s.withLei v).tailNo = s.tailNo := rfl
@[simp] theorem State.withSns_tailNo (v : Vector SenseInput 4) : (s.withSns v).tailNo = s.tailNo := rfl
@[simp] theorem State.withMkd_tailNo (v : Mkd) : (s.withMkd v).tailNo = s.tailNo := rfl
@[simp] theorem State.withBanks_tailNo (v : Vector Bank 2) : (s.withBanks v).tailNo = s.tailNo := rfl
@[simp] theorem State.withAct_tailNo (v : Vector Line 16) : (s.withAct v).tailNo = s.tailNo := rfl
@[simp] theorem State.withRun_tailNo (v : Run) : (s.withRun v).tailNo = s.tailNo := rfl
@[simp] theorem State.withNtq_tailNo (v : Ntq) : (s.withNtq v).tailNo = s.tailNo := rfl
@[simp] theorem State.withSlk_tailNo (v : Slk) : (s.withSlk v).tailNo = s.tailNo := rfl

@[simp] theorem State.withPending_findItem (v : List Instr) (no : ItemNo) : (s.withPending v).findItem no = s.findItem no := rfl
@[simp] theorem State.withPins_findItem (v : Pins) (no : ItemNo) : (s.withPins v).findItem no = s.findItem no := rfl
@[simp] theorem State.withSamples_findItem (v : List Pins) (no : ItemNo) : (s.withSamples v).findItem no = s.findItem no := rfl
@[simp] theorem State.withLei_findItem (v : Lei) (no : ItemNo) : (s.withLei v).findItem no = s.findItem no := rfl
@[simp] theorem State.withSns_findItem (v : Vector SenseInput 4) (no : ItemNo) : (s.withSns v).findItem no = s.findItem no := rfl
@[simp] theorem State.withMkd_findItem (v : Mkd) (no : ItemNo) : (s.withMkd v).findItem no = s.findItem no := rfl
@[simp] theorem State.withBanks_findItem (v : Vector Bank 2) (no : ItemNo) : (s.withBanks v).findItem no = s.findItem no := rfl
@[simp] theorem State.withAct_findItem (v : Vector Line 16) (no : ItemNo) : (s.withAct v).findItem no = s.findItem no := rfl
@[simp] theorem State.withRun_findItem (v : Run) (no : ItemNo) : (s.withRun v).findItem no = s.findItem no := rfl
@[simp] theorem State.withNtq_findItem (v : Ntq) (no : ItemNo) : (s.withNtq v).findItem no = s.findItem no := rfl
@[simp] theorem State.withSlk_findItem (v : Slk) (no : ItemNo) : (s.withSlk v).findItem no = s.findItem no := rfl

@[simp] theorem State.withPending_activeBank (v : List Instr) : (s.withPending v).activeBank = s.activeBank := rfl
@[simp] theorem State.withPins_activeBank (v : Pins) : (s.withPins v).activeBank = s.activeBank := rfl
@[simp] theorem State.withSamples_activeBank (v : List Pins) : (s.withSamples v).activeBank = s.activeBank := rfl
@[simp] theorem State.withLei_activeBank (v : Lei) : (s.withLei v).activeBank = s.activeBank := rfl
@[simp] theorem State.withSns_activeBank (v : Vector SenseInput 4) : (s.withSns v).activeBank = s.activeBank := rfl
@[simp] theorem State.withMkd_activeBank (v : Mkd) : (s.withMkd v).activeBank = s.activeBank := rfl
@[simp] theorem State.withIq_activeBank (v : Iq) : (s.withIq v).activeBank = s.activeBank := rfl
@[simp] theorem State.withAct_activeBank (v : Vector Line 16) : (s.withAct v).activeBank = s.activeBank := rfl
@[simp] theorem State.withRun_activeBank (v : Run) : (s.withRun v).activeBank = s.activeBank := rfl
@[simp] theorem State.withNtq_activeBank (v : Ntq) : (s.withNtq v).activeBank = s.activeBank := rfl
@[simp] theorem State.withSlk_activeBank (v : Slk) : (s.withSlk v).activeBank = s.activeBank := rfl

@[simp] theorem State.withPending_armedBank (v : List Instr) : (s.withPending v).armedBank = s.armedBank := rfl
@[simp] theorem State.withPins_armedBank (v : Pins) : (s.withPins v).armedBank = s.armedBank := rfl
@[simp] theorem State.withSamples_armedBank (v : List Pins) : (s.withSamples v).armedBank = s.armedBank := rfl
@[simp] theorem State.withLei_armedBank (v : Lei) : (s.withLei v).armedBank = s.armedBank := rfl
@[simp] theorem State.withSns_armedBank (v : Vector SenseInput 4) : (s.withSns v).armedBank = s.armedBank := rfl
@[simp] theorem State.withMkd_armedBank (v : Mkd) : (s.withMkd v).armedBank = s.armedBank := rfl
@[simp] theorem State.withIq_armedBank (v : Iq) : (s.withIq v).armedBank = s.armedBank := rfl
@[simp] theorem State.withAct_armedBank (v : Vector Line 16) : (s.withAct v).armedBank = s.armedBank := rfl
@[simp] theorem State.withRun_armedBank (v : Run) : (s.withRun v).armedBank = s.armedBank := rfl
@[simp] theorem State.withNtq_armedBank (v : Ntq) : (s.withNtq v).armedBank = s.armedBank := rfl
@[simp] theorem State.withSlk_armedBank (v : Slk) : (s.withSlk v).armedBank = s.armedBank := rfl

@[simp] theorem State.withPending_held (v : List Instr) : (s.withPending v).held = s.held := rfl
@[simp] theorem State.withSamples_held (v : List Pins) : (s.withSamples v).held = s.held := rfl
@[simp] theorem State.withLei_held (v : Lei) : (s.withLei v).held = s.held := rfl
@[simp] theorem State.withSns_held (v : Vector SenseInput 4) : (s.withSns v).held = s.held := rfl
@[simp] theorem State.withMkd_held (v : Mkd) : (s.withMkd v).held = s.held := rfl
@[simp] theorem State.withIq_held (v : Iq) : (s.withIq v).held = s.held := rfl
@[simp] theorem State.withBanks_held (v : Vector Bank 2) : (s.withBanks v).held = s.held := rfl
@[simp] theorem State.withAct_held (v : Vector Line 16) : (s.withAct v).held = s.held := rfl
@[simp] theorem State.withRun_held (v : Run) : (s.withRun v).held = s.held := rfl
@[simp] theorem State.withNtq_held (v : Ntq) : (s.withNtq v).held = s.held := rfl
@[simp] theorem State.withSlk_held (v : Slk) : (s.withSlk v).held = s.held := rfl
@[simp] theorem State.withClock_held (t : Time) (f : Nat) : (s.withClock t f).held = s.held := rfl

end Sys2Proof.Machine
end

