-- ==== Sys2Proof/Laws/Access.lean ====
section
/-! SUPPORT. What the updates of one bank, station, window, line or item leave at each place. -/

namespace Sys2Proof.Machine

/-! ### Vectors and lists -/

@[simp] theorem mapV_getElem {α β : Type} {n : Nat} (f : α → β) (v : Vector α n) (i : Nat) (h : i < n) :
    (mapV f v)[i] = f v[i] := by
  simp [mapV]

@[simp] theorem mapV_getElem_fin {α β : Type} {n : Nat} (f : α → β) (v : Vector α n) (i : Fin n) :
    (mapV f v)[i] = f v[i] := mapV_getElem f v i.val i.isLt

theorem mapV_set {α β : Type} {n : Nat} (f : α → β) (v : Vector α n) (i : Nat) (h : i < n) (x : α) :
    mapV f (v.set i x) = (mapV f v).set i (f x) := by
  ext j hj
  simp only [mapV_getElem, Vector.getElem_set]
  split <;> rfl

/-- Replacing one entry by one with the same image changes no image. -/
theorem mapV_set_of_eq {α β : Type} {n : Nat} (f : α → β) (v : Vector α n) (i : Nat) (h : i < n) (x : α)
    (hx : f x = f v[i]) : mapV f (v.set i x) = mapV f v := by
  ext j hj
  simp only [mapV_getElem, Vector.getElem_set]
  split
  · subst_vars; exact hx
  · rfl

theorem mapV_mapV {α β γ : Type} {n : Nat} (f : α → β) (g : β → γ) (v : Vector α n) :
    mapV g (mapV f v) = mapV (fun x => g (f x)) v := by
  ext j hj; simp

theorem mapV_congr {α β : Type} {n : Nat} {f g : α → β} (h : ∀ x, f x = g x) (v : Vector α n) : mapV f v = mapV g v := by
  ext j hj; simp [h]

/-- Rearranging takes only what was there. -/
theorem mem_of_mem_arrange {α : Type} {x : α} : ∀ {ks : List Nat} {l : List α}, x ∈ arrange ks l → x ∈ l
  | [], _, h => by simpa [arrange] using h
  | k :: ks, l, h => by
    simp only [arrange] at h
    split at h
    · rename_i y hy
      rcases List.mem_cons.mp h with rfl | h
      · exact List.mem_of_getElem? hy
      · exact List.mem_of_mem_eraseIdx (mem_of_mem_arrange h)
    · exact mem_of_mem_arrange h

/-- Rearranging loses nothing and repeats nothing. -/
theorem arrange_perm {α : Type} : ∀ (ks : List Nat) (l : List α), (arrange ks l).Perm l
  | [], l => .refl l
  | k :: ks, l => by
    simp only [arrange]
    split
    · rename_i x hx
      obtain ⟨hk, rfl⟩ := List.getElem?_eq_some_iff.mp hx
      exact ((arrange_perm ks _).cons _).trans (List.getElem_cons_eraseIdx_perm hk)
    · exact arrange_perm ks l

@[simp] theorem arrange_nil {α : Type} (l : List α) : arrange [] l = l := rfl

/-! ### Banks, stations, windows -/

@[simp] theorem State.modBank_bank (s : State) (b c : Fin 2) (f : Bank → Bank) :
    (s.modBank b f).bank c = if b = c then f (s.bank b) else s.bank c := by
  simp [State.modBank, State.bank, Fin.getElem_fin, Vector.getElem_set, Fin.ext_iff]

@[simp] theorem State.mapBanks_bank (s : State) (b : Fin 2) (f : Bank → Bank) : (s.mapBanks f).bank b = f (s.bank b) := by
  simp [State.mapBanks, State.bank]

theorem Bank.modStation_stations (k : Bank) (n m : Fin 16) (f : Station → Station) :
    (k.modStation n f).stations[m] = if n = m then f k.stations[n] else k.stations[m] := by
  simp [Bank.modStation, Fin.getElem_fin, Vector.getElem_set, Fin.ext_iff]

theorem Bank.modWindow_windows (k : Bank) (w v : Fin 4) (f : Window → Window) :
    (k.modWindow w f).windows[v] = if w = v then f k.windows[w] else k.windows[v] := by
  simp [Bank.modWindow, Fin.getElem_fin, Vector.getElem_set, Fin.ext_iff]

@[simp] theorem State.modStation_station (s : State) (b c : Fin 2) (n m : Fin 16) (f : Station → Station) :
    (s.modStation b n f).station c m = if b = c ∧ n = m then f (s.station b n) else s.station c m := by
  simp only [State.modStation, State.station, State.modBank_bank]
  by_cases hb : b = c
  · subst hb; simpa using Bank.modStation_stations (s.bank b) n m f
  · simp [hb]

@[simp] theorem State.modStationRun_station (s : State) (b c : Fin 2) (n m : Fin 16) (f : StationRun → StationRun) :
    (s.modStationRun b n f).station c m =
      if b = c ∧ n = m then { s.station b n with run := f (s.station b n).run } else s.station c m := by
  simp [State.modStationRun]

@[simp] theorem State.modWindowRun_window (s : State) (b c : Fin 2) (w v : Fin 4) (f : WindowRun → WindowRun) :
    (s.modWindowRun b w f).window c v =
      if b = c ∧ w = v then { s.window b w with run := f (s.window b w).run } else s.window c v := by
  simp only [State.modWindowRun, State.modWindow, State.window, State.modBank_bank]
  by_cases hb : b = c
  · subst hb; simpa using Bank.modWindow_windows (s.bank b) w v _
  · simp [hb]

@[simp] theorem State.modWindowRun_station (s : State) (b c : Fin 2) (w : Fin 4) (m : Fin 16) (f : WindowRun → WindowRun) :
    (s.modWindowRun b w f).station c m = s.station c m := by
  simp only [State.modWindowRun, State.modWindow, State.station, State.modBank_bank]
  split
  · rename_i h; subst h; simp [Bank.modWindow]
  · rfl

@[simp] theorem State.modStationRun_window (s : State) (b c : Fin 2) (n : Fin 16) (v : Fin 4) (f : StationRun → StationRun) :
    (s.modStationRun b n f).window c v = s.window c v := by
  simp only [State.modStationRun, State.modStation, State.window, State.modBank_bank]
  split
  · rename_i h; subst h; simp [Bank.modStation]
  · rfl

@[simp] theorem State.mapStationRuns_station (s : State) (b : Fin 2) (n : Fin 16) (f : StationRun → StationRun) :
    (s.mapStationRuns f).station b n = { s.station b n with run := f (s.station b n).run } := by
  simp [State.mapStationRuns, State.station]

@[simp] theorem State.mapWindowRuns_window (s : State) (b : Fin 2) (w : Fin 4) (f : WindowRun → WindowRun) :
    (s.mapWindowRuns f).window b w = { s.window b w with run := f (s.window b w).run } := by
  simp [State.mapWindowRuns, State.window]

@[simp] theorem State.mapWindowRuns_station (s : State) (b : Fin 2) (n : Fin 16) (f : WindowRun → WindowRun) :
    (s.mapWindowRuns f).station b n = s.station b n := by
  simp [State.mapWindowRuns, State.station]

@[simp] theorem State.mapStationRuns_window (s : State) (b : Fin 2) (w : Fin 4) (f : StationRun → StationRun) :
    (s.mapStationRuns f).window b w = s.window b w := by
  simp [State.mapStationRuns, State.window]

/-! ### Lines -/

@[simp] theorem State.modLine_line (s : State) (k m : Fin 16) (f : Line → Line) :
    (s.modLine k f).line m = if k = m then f (s.line k) else s.line m := by
  simp [State.modLine, State.line, Fin.getElem_fin, Vector.getElem_set, Fin.ext_iff]

@[simp] theorem State.mapLines_line (s : State) (k : Fin 16) (f : Line → Line) : (s.mapLines f).line k = f (s.line k) := by
  simp [State.mapLines, State.line]

end Sys2Proof.Machine
end

