-- ==== Sys2Proof/Laws/Notices.lean ====
section
/-! SUPPORT. What the transmitter's choice and the offer of a notice leave as they were. -/

namespace Sys2Proof.Machine

theorem serve_cases (s : State) : ∃ n l, serve s = (s.withNtq n).withSlk l ∧ n.classes = s.ntq.classes ∧ n.next = s.ntq.next ∧
    l = { s.slk with tx := l.tx, responses := l.responses } := by
  unfold serve
  split
  · exact ⟨s.ntq, s.slk, rfl, rfl, rfl, rfl⟩
  · split
    · exact ⟨s.ntq, _, rfl, rfl, rfl, rfl⟩
    · split
      · exact ⟨s.ntq, s.slk, rfl, rfl, rfl, rfl⟩
      · exact ⟨s.ntq, s.slk, rfl, rfl, rfl, rfl⟩
      · exact ⟨_, _, rfl, rfl, rfl, rfl⟩

theorem offer_cases (s : State) (body : NoticeBody) : ∃ n l, s.offer body = (s.withNtq n).withSlk l ∧
    n.classes = s.ntq.classes ∧ l = { s.slk with tx := l.tx, responses := l.responses } := by
  have hc : (s.ntq.offer s.partTime body).classes = s.ntq.classes := by
    unfold Ntq.offer; dsimp only; split <;> rfl
  unfold State.offer
  dsimp only
  split
  · obtain ⟨n, l, h, h1, -, h2⟩ := serve_cases (s.withNtq (s.ntq.offer s.partTime body))
    exact ⟨n, l, by rw [h]; rfl, by rw [h1]; exact hc, h2⟩
  · exact ⟨_, s.slk, rfl, hc, rfl⟩

/-! ### Field by field -/

@[simp] theorem serve_pending (s : State) : (serve s).pending = s.pending := by
  obtain ⟨n, l, h, -⟩ := serve_cases s; rw [h]; rfl
@[simp] theorem serve_partTime (s : State) : (serve s).partTime = s.partTime := by
  obtain ⟨n, l, h, -⟩ := serve_cases s; rw [h]; rfl
@[simp] theorem serve_fine (s : State) : (serve s).fine = s.fine := by
  obtain ⟨n, l, h, -⟩ := serve_cases s; rw [h]; rfl
@[simp] theorem serve_pins (s : State) : (serve s).pins = s.pins := by
  obtain ⟨n, l, h, -⟩ := serve_cases s; rw [h]; rfl
@[simp] theorem serve_samples (s : State) : (serve s).samples = s.samples := by
  obtain ⟨n, l, h, -⟩ := serve_cases s; rw [h]; rfl
@[simp] theorem serve_sched (s : State) : (serve s).sched = s.sched := by
  obtain ⟨n, l, h, -⟩ := serve_cases s; rw [h]; rfl
@[simp] theorem serve_lei (s : State) : (serve s).lei = s.lei := by
  obtain ⟨n, l, h, -⟩ := serve_cases s; rw [h]; rfl
@[simp] theorem serve_sns (s : State) : (serve s).sns = s.sns := by
  obtain ⟨n, l, h, -⟩ := serve_cases s; rw [h]; rfl
@[simp] theorem serve_mkd (s : State) : (serve s).mkd = s.mkd := by
  obtain ⟨n, l, h, -⟩ := serve_cases s; rw [h]; rfl
@[simp] theorem serve_iq (s : State) : (serve s).iq = s.iq := by
  obtain ⟨n, l, h, -⟩ := serve_cases s; rw [h]; rfl
@[simp] theorem serve_banks (s : State) : (serve s).banks = s.banks := by
  obtain ⟨n, l, h, -⟩ := serve_cases s; rw [h]; rfl
@[simp] theorem serve_act (s : State) : (serve s).act = s.act := by
  obtain ⟨n, l, h, -⟩ := serve_cases s; rw [h]; rfl
@[simp] theorem serve_run (s : State) : (serve s).run = s.run := by
  obtain ⟨n, l, h, -⟩ := serve_cases s; rw [h]; rfl
@[simp] theorem serve_bank (s : State) (b : Fin 2) : (serve s).bank b = s.bank b := by
  obtain ⟨n, l, h, -⟩ := serve_cases s; rw [h]; rfl
@[simp] theorem serve_station (s : State) (b : Fin 2) (n : Fin 16) : (serve s).station b n = s.station b n := by
  obtain ⟨n, l, h, -⟩ := serve_cases s; rw [h]; rfl
@[simp] theorem serve_window (s : State) (b : Fin 2) (w : Fin 4) : (serve s).window b w = s.window b w := by
  obtain ⟨n, l, h, -⟩ := serve_cases s; rw [h]; rfl
@[simp] theorem serve_line (s : State) (k : Fin 16) : (serve s).line k = s.line k := by
  obtain ⟨n, l, h, -⟩ := serve_cases s; rw [h]; rfl
@[simp] theorem serve_running (s : State) : (serve s).running = s.running := by
  obtain ⟨n, l, h, -⟩ := serve_cases s; rw [h]; rfl
@[simp] theorem serve_findItem (s : State) (no : ItemNo) : (serve s).findItem no = s.findItem no := by
  obtain ⟨n, l, h, -⟩ := serve_cases s; rw [h]; rfl
@[simp] theorem serve_activeBank (s : State) : (serve s).activeBank = s.activeBank := by
  obtain ⟨n, l, h, -⟩ := serve_cases s; rw [h]; rfl
@[simp] theorem serve_armedBank (s : State) : (serve s).armedBank = s.armedBank := by
  obtain ⟨n, l, h, -⟩ := serve_cases s; rw [h]; rfl

@[simp] theorem State.offer_pending (s : State) (body : NoticeBody) : (s.offer body).pending = s.pending := by
  obtain ⟨n, l, h, -⟩ := offer_cases s body; rw [h]; rfl
@[simp] theorem State.offer_partTime (s : State) (body : NoticeBody) : (s.offer body).partTime = s.partTime := by
  obtain ⟨n, l, h, -⟩ := offer_cases s body; rw [h]; rfl
@[simp] theorem State.offer_fine (s : State) (body : NoticeBody) : (s.offer body).fine = s.fine := by
  obtain ⟨n, l, h, -⟩ := offer_cases s body; rw [h]; rfl
@[simp] theorem State.offer_pins (s : State) (body : NoticeBody) : (s.offer body).pins = s.pins := by
  obtain ⟨n, l, h, -⟩ := offer_cases s body; rw [h]; rfl
@[simp] theorem State.offer_samples (s : State) (body : NoticeBody) : (s.offer body).samples = s.samples := by
  obtain ⟨n, l, h, -⟩ := offer_cases s body; rw [h]; rfl
@[simp] theorem State.offer_sched (s : State) (body : NoticeBody) : (s.offer body).sched = s.sched := by
  obtain ⟨n, l, h, -⟩ := offer_cases s body; rw [h]; rfl
@[simp] theorem State.offer_lei (s : State) (body : NoticeBody) : (s.offer body).lei = s.lei := by
  obtain ⟨n, l, h, -⟩ := offer_cases s body; rw [h]; rfl
@[simp] theorem State.offer_sns (s : State) (body : NoticeBody) : (s.offer body).sns = s.sns := by
  obtain ⟨n, l, h, -⟩ := offer_cases s body; rw [h]; rfl
@[simp] theorem State.offer_mkd (s : State) (body : NoticeBody) : (s.offer body).mkd = s.mkd := by
  obtain ⟨n, l, h, -⟩ := offer_cases s body; rw [h]; rfl
@[simp] theorem State.offer_iq (s : State) (body : NoticeBody) : (s.offer body).iq = s.iq := by
  obtain ⟨n, l, h, -⟩ := offer_cases s body; rw [h]; rfl
@[simp] theorem State.offer_banks (s : State) (body : NoticeBody) : (s.offer body).banks = s.banks := by
  obtain ⟨n, l, h, -⟩ := offer_cases s body; rw [h]; rfl
@[simp] theorem State.offer_act (s : State) (body : NoticeBody) : (s.offer body).act = s.act := by
  obtain ⟨n, l, h, -⟩ := offer_cases s body; rw [h]; rfl
@[simp] theorem State.offer_run (s : State) (body : NoticeBody) : (s.offer body).run = s.run := by
  obtain ⟨n, l, h, -⟩ := offer_cases s body; rw [h]; rfl
@[simp] theorem State.offer_bank (s : State) (body : NoticeBody) (b : Fin 2) : (s.offer body).bank b = s.bank b := by
  obtain ⟨n, l, h, -⟩ := offer_cases s body; rw [h]; rfl
@[simp] theorem State.offer_station (s : State) (body : NoticeBody) (b : Fin 2) (n : Fin 16) : (s.offer body).station b n = s.station b n := by
  obtain ⟨n, l, h, -⟩ := offer_cases s body; rw [h]; rfl
@[simp] theorem State.offer_window (s : State) (body : NoticeBody) (b : Fin 2) (w : Fin 4) : (s.offer body).window b w = s.window b w := by
  obtain ⟨n, l, h, -⟩ := offer_cases s body; rw [h]; rfl
@[simp] theorem State.offer_line (s : State) (body : NoticeBody) (k : Fin 16) : (s.offer body).line k = s.line k := by
  obtain ⟨n, l, h, -⟩ := offer_cases s body; rw [h]; rfl
@[simp] theorem State.offer_running (s : State) (body : NoticeBody) : (s.offer body).running = s.running := by
  obtain ⟨n, l, h, -⟩ := offer_cases s body; rw [h]; rfl
@[simp] theorem State.offer_findItem (s : State) (body : NoticeBody) (no : ItemNo) : (s.offer body).findItem no = s.findItem no := by
  obtain ⟨n, l, h, -⟩ := offer_cases s body; rw [h]; rfl
@[simp] theorem State.offer_activeBank (s : State) (body : NoticeBody) : (s.offer body).activeBank = s.activeBank := by
  obtain ⟨n, l, h, -⟩ := offer_cases s body; rw [h]; rfl
@[simp] theorem State.offer_armedBank (s : State) (body : NoticeBody) : (s.offer body).armedBank = s.armedBank := by
  obtain ⟨n, l, h, -⟩ := offer_cases s body; rw [h]; rfl

end Sys2Proof.Machine
end

