-- ==== Sys2Proof/Laws/Acts.lean ====
section
/-! SUPPORT. What the blocks can do within one event, said once: the acts of the detector, the item queue, the stations, the
windows, the banks and run control, and that every composite operation is made of them. An invariant of the tracking core
needs a proof for each act only. -/

namespace Sys2Proof.Machine

/-- Which acts are allowed: those of items, stations and windows; the creation of items too; the detector's too; the taking of
faults too. -/
inductive Power where
  | settling | tracking | marks | faults
  deriving DecidableEq

/-- The acts of the tracking core. -/
inductive Acts (p : Power) : State → State → Prop where
  | refl (s : State) : Acts p s s
  | trans {s t u : State} : Acts p s t → Acts p t u → Acts p s u
  /-- a notice is offered -/
  | offer (s : State) (body : NoticeBody) : Acts p s (s.offer body)
  /-- the detector changes its run state; it leaves IDLE in RUN only -/
  | detector (s : State) (m : Mkd) (allowed : p = .marks ∨ p = .faults) (cfg : m.cfg = s.mkd.cfg) (idle : m.state = .idle ∨ s.run.mode = .run) :
      Acts p s (s.withMkd m)
  /-- an item changes, its number and bank excepted -/
  | item (s : State) (no : ItemNo) (f : Item → Item) (bank : ∀ i, (f i).bank = i.bank) (num : ∀ i, (f i).no = i.no) :
      Acts p s (s.modItem no f)
  /-- an item of the next number joins a queue that has room, in RUN -/
  | join (s : State) (i : Item) (creating : p ≠ .settling) (room : s.iq.items.length < Config.itemCapacity)
      (mode : s.run.mode = .run) (num : i.no = s.iq.next) : Acts p s (joinQueue i s)
  /-- the head item leaves the queue with its N_ITEM -/
  | retire (s : State) (i : Item) (rest : List Item) (body : NoticeBody) (head : s.iq.items = i :: rest) :
      Acts p s (bankRetired i.bank ((s.withIq { s.iq with items := rest }).offer body))
  /-- a station's run state changes; a pulse starts in RUN and STOPPING only -/
  | station (s : State) (b : Fin 2) (n : Fin 16) (f : StationRun → StationRun)
      (on : (f (s.station b n).run).on = true → (s.station b n).run.on = true ∨ s.running = true) :
      Acts p s (s.modStationRun b n f)
  /-- a window's run state changes -/
  | window (s : State) (b : Fin 2) (w : Fin 4) (f : WindowRun → WindowRun) : Acts p s (s.modWindowRun b w f)
  /-- a line's latch changes, in RUN and STOPPING only -/
  | latch (s : State) (l : Fin 16) (v : Bool) (mode : s.running = true) :
      Acts p s (s.modLine l fun k => { k with latch := v })
  /-- an ARMED bank is switched to, in RUN -/
  | switch (s : State) (creating : p ≠ .settling) (mode : s.run.mode = .run) : Acts p s (switchBanks s)
  /-- a drain ends -/
  | drained (s : State) (mode : s.run.mode = .stopping) (empty : s.iq.items = []) :
      Acts p s (enterConfigure .drained .nothing s)
  /-- a fault cause is taken in RUN or STOPPING -/
  | fault (s : State) (cause : Cause) (allowed : p = .faults) (mode : s.running = true) :
      Acts p s (enterFault cause s)
  /-- a fault cause is taken in FAULT -/
  | cause (s : State) (c : Cause) (allowed : p = .faults) (mode : s.run.mode = .fault) : Acts p s (addCause c s)

variable {p : Power}

theorem Acts.mono {s t : State} (h : Acts .marks s t) : Acts .faults s t := by
  induction h with
  | refl s => exact .refl s
  | trans _ _ h1 h2 => exact .trans h1 h2
  | offer s body => exact .offer s body
  | detector s m allowed cfg idle => exact .detector s m (.inr rfl) cfg idle
  | item s no f bank num => exact .item s no f bank num
  | join s i creating room mode num => exact .join s i (by decide) room mode num
  | retire s i rest body head => exact .retire s i rest body head
  | station s b n f on => exact .station s b n f on
  | window s b w f => exact .window s b w f
  | latch s l v mode => exact .latch s l v mode
  | switch s creating mode => exact .switch s (by decide) mode
  | drained s mode empty => exact .drained s mode empty
  | fault s c allowed mode => cases allowed
  | cause s c allowed mode => cases allowed

theorem Acts.of_eq {s t : State} (h : t = s) : Acts p s t := by subst h; exact .refl _

/-- A fold of operations that are acts is an act. -/
theorem Acts.foldl {α : Type} (f : State → α → State) (P : State → Prop)
    (step : ∀ s x, P s → Acts p s (f s x)) (keep : ∀ s t, P s → Acts p s t → P t) :
    ∀ (l : List α) (s : State), P s → Acts p s (l.foldl f s)
  | [], s, _ => .refl s
  | x :: l, s, h => (step s x h).trans (Acts.foldl f P step keep l _ (keep _ _ h (step s x h)))

end Sys2Proof.Machine
end

