-- ==== Sys2Proof/Laws/Blocks.lean ====
section
/-! SUPPORT. The operations of the item queue, the stations, the windows, the creation of items and the detector are made of
acts: one lemma for each. -/

namespace Sys2Proof.Machine

variable {p : Power}

/-! ### The item queue -/

@[simp] theorem Item.decidedTest_bank (i : Item) : i.decidedTest.bank = i.bank := by
  unfold Item.decidedTest; split <;> rfl

@[simp] theorem Item.decidedTest_no (i : Item) : i.decidedTest.no = i.no := by
  unfold Item.decidedTest; split <;> rfl

theorem retireLoop_acts : ∀ (l : List Item) (s : State), s.iq.items = l → Acts p s (retireLoop l s)
  | [], s, _ => .refl s
  | i :: rest, s, h => by
    unfold retireLoop
    split
    · have h1 : Acts p s (bankRetired i.bank ((s.withIq { s.iq with items := rest }).offer
          (.item i s.lei.reach rest.length))) := .retire s i rest _ h
      refine h1.trans ?_
      dsimp only
      split
      · rename_i hd
        simp only [Bool.and_eq_true, beq_iff_eq, List.isEmpty_iff] at hd
        obtain ⟨hm, rfl⟩ := hd
        refine (Acts.drained _ hm ?_).trans ?_
        · simp [bankRetired, State.modBank]
        · exact .of_eq (by unfold retireLoop; rfl)
      · refine retireLoop_acts rest _ ?_
        simp [bankRetired, State.modBank]
    · exact .refl s

theorem retireHeads_acts (s : State) : Acts p s (retireHeads s) := retireLoop_acts _ s rfl

theorem settleItem_acts (no : ItemNo) (s : State) : Acts p s (settleItem no s) :=
  (Acts.item s no _ Item.decidedTest_bank Item.decidedTest_no).trans (retireHeads_acts _)

theorem writeStation_acts (no : ItemNo) (n : Fin 16) (o : StationOutcome) (s : State) :
    Acts p s (writeStation no n o s) :=
  (Acts.item s no _ (fun i => by unfold Item.writeStation; split <;> rfl)
    (fun i => by unfold Item.writeStation; split <;> rfl)).trans (settleItem_acts no _)

theorem writeWindow_acts (no : ItemNo) (w : Fin 4) (o : WindowOutcome) (s : State) :
    Acts p s (writeWindow no w o s) :=
  (Acts.item s no _ (fun i => by unfold Item.writeWindow; split <;> rfl)
    (fun i => by unfold Item.writeWindow; split <;> rfl)).trans (settleItem_acts no _)

theorem closeItem_acts (i : Item) (s : State) : Acts p s (closeItem i s) :=
  (Acts.item s i.no _ (fun i => by unfold Item.close; split <;> rfl)
    (fun i => by unfold Item.close; split <;> rfl)).trans (settleItem_acts i.no _)

/-! ### The stations -/

theorem pulseStation_acts (b : Fin 2) (n : Fin 16) (kind : LengthKind) (target : BitVec 32) (item : ItemNo)
    (deadline : Option Time) (s : State) (h : s.running = true) :
    Acts p s (pulseStation b n kind target item deadline s).1 := by
  unfold pulseStation
  dsimp only
  exact .station s b n _ fun _ => .inr h

theorem stationAct_acts (b : Fin 2) (n : Fin 16) (i : Item) (c : Bool) (s : State) (h : s.running = true) :
    Acts p s (stationAct b n i c s).1 := by
  unfold stationAct
  split
  · unfold stationAction
    dsimp only
    split
    · exact .latch s _ true h
    · exact .latch s _ false h
    · exact .latch s _ _ h
    · split
      · split
        · exact .refl s
        · exact pulseStation_acts b n _ _ _ _ s h
      · exact pulseStation_acts b n _ _ _ _ s h
  · exact .refl s

theorem decideStation_acts (b : Fin 2) (n : Fin 16) (i : Item) (c : Bool) (s : State) (h : s.running = true) :
    Acts p s (decideStation b n i c s) := by
  unfold decideStation
  exact ((stationAct_acts b n i c s h).trans (writeStation_acts _ n _ _)).trans (.station _ b n _ fun h => .inl h)

theorem stationLoop_acts (b : Fin 2) (n : Fin 16) : ∀ (fuel : Nat) (s : State), Acts p s (stationLoop b n fuel s)
  | 0, s => .refl s
  | fuel + 1, s => by
    unfold stationLoop
    split
    · rename_i h
      split
      · exact .refl s
      · split
        · split
          · exact .station s b n _ fun h => .inl h
          · exact (decideStation_acts b n _ _ s h).trans (stationLoop_acts b n fuel _)
        · exact .refl s
    · exact .refl s

theorem stationTest_acts (b : Fin 2) (n : Fin 16) (s : State) : Acts p s (stationTest b n s) :=
  stationLoop_acts b n _ s

theorem releaseStation_acts (b : Fin 2) (n : Fin 16) (s : State) : Acts p s (releaseStation b n s) := by
  unfold releaseStation
  split
  · rename_i h
    split
    · exact .refl s
    · split
      · exact .refl s
      · exact (decideStation_acts b n _ _ s h).trans (stationTest_acts b n _)
  · exact .refl s

theorem releaseHeld_acts (b : Fin 2) (no : ItemNo) (waits : StationDef → Bool) (s : State) :
    Acts p s (releaseHeld b no waits s) :=
  Acts.foldl _ (fun _ => True) (fun s n _ => releaseStation_acts b n s) (fun _ _ _ _ => trivial) _ s trivial

theorem closeVerdict_acts (i : Item) (s : State) : Acts p s (closeVerdict i s) :=
  (closeItem_acts i s).trans (releaseHeld_acts _ _ _ _)

theorem closeVerdicts_acts (s : State) : Acts p s (closeVerdicts s) :=
  Acts.foldl _ (fun _ => True)
    (fun s i _ => by
      split
      · exact closeVerdict_acts i s
      · exact .refl s)
    (fun _ _ _ _ => trivial) _ s trivial

theorem endPulseOf_acts (b : Fin 2) (n : Fin 16) (cause : EndCause) (s : State) :
    Acts p s (endPulseOf b n cause s) :=
  .station s b n _ fun h => by
    unfold StationRun.endPulse at h
    split at h
    · simp at h
    · exact .inl h

theorem distanceEnd_acts (b : Fin 2) (n : Fin 16) (s : State) : Acts p s (distanceEnd b n s) := by
  unfold distanceEnd
  split
  · exact endPulseOf_acts b n _ s
  · exact .refl s

/-! ### The windows -/

theorem resolveWindow_acts (b : Fin 2) (w : Fin 4) (i : Item) (o : WindowOutcome) (s : State) :
    Acts p s (resolveWindow b w i o s) :=
  ((writeWindow_acts i.no w o s).trans (.window _ b w _)).trans (releaseHeld_acts _ _ _ _)

theorem windowTest_acts (b : Fin 2) (w : Fin 4) (i : Item) (s : State) : Acts p s (windowTest b w i s).1 := by
  unfold windowTest
  dsimp only
  split
  · split <;> exact .refl s
  · split
    · split
      · exact .window s b w _
      · exact .window s b w _
    · exact .refl s

theorem windowLoop_acts (b : Fin 2) (w : Fin 4) : ∀ (fuel : Nat) (s : State), Acts p s (windowLoop b w fuel s)
  | 0, s => .refl s
  | fuel + 1, s => by
    unfold windowLoop
    split
    · split
      · exact .refl s
      · rename_i i _
        have h := windowTest_acts (p := p) b w i s
        split
        · rename_i heq; rw [heq] at h; exact h
        · rename_i heq; rw [heq] at h
          exact (h.trans (resolveWindow_acts b w i _ _)).trans (windowLoop_acts b w fuel _)
    · exact .refl s

theorem windowAdvance_acts (b : Fin 2) (w : Fin 4) (s : State) : Acts p s (windowAdvance b w s) :=
  windowLoop_acts b w _ s

theorem windowEdge_acts (b : Fin 2) (w : Fin 4) (input : Fin 4) (active : Bool) (s : State) :
    Acts p s (windowEdge b w input active s) := by
  unfold windowEdge
  split
  · dsimp only
    split
    · exact ((Acts.window s b w _).trans (resolveWindow_acts b w _ _ _)).trans (windowAdvance_acts b w _)
    · exact .window s b w _
  · exact .refl s

/-! ### Creations -/

theorem takeUp_acts (b : Fin 2) (no : ItemNo) (t : Taker) (s : State) : Acts p s (takeUp b no t s) := by
  unfold takeUp
  split
  · exact .refl s
  · split
    · split
      · exact (Acts.station s b _ _ fun h => .inl h).trans (stationTest_acts b _ _)
      · exact .refl s
    · split
      · exact (Acts.window s b _ _).trans (windowAdvance_acts b _ _)
      · exact .refl s

@[simp] theorem State.offerBank_run (s : State) (e : BankEvent) (b : Fin 2) (first : ItemNo) :
    (s.offerBank e b first).run = s.run := by simp [State.offerBank]

@[simp] theorem State.offerBank_iq (s : State) (e : BankEvent) (b : Fin 2) (first : ItemNo) :
    (s.offerBank e b first).iq = s.iq := by simp [State.offerBank]

theorem switchBanks_run (s : State) : (switchBanks s).run = s.run := by
  unfold switchBanks; split <;> simp [State.modBank]

theorem switchBanks_iq (s : State) : (switchBanks s).iq = s.iq := by
  unfold switchBanks; split <;> simp [State.modBank]

/-- A creation: the switch, the new item at the tail, and then acts that create nothing (R42). -/
theorem makeItem_settling (origin : Origin) (mark : Pos) (s : State) :
    Acts p (joinQueue ((switchBanks s).newItem origin mark) (switchBanks s)) (makeItem origin mark s) := by
  unfold makeItem
  refine Acts.trans (t := if (joinQueue ((switchBanks s).newItem origin mark) (switchBanks s)).closeDue
      ((switchBanks s).newItem origin mark) then closeVerdict ((switchBanks s).newItem origin mark)
        (joinQueue ((switchBanks s).newItem origin mark) (switchBanks s))
      else joinQueue ((switchBanks s).newItem origin mark) (switchBanks s)) ?_ ?_
  · split
    · exact closeVerdict_acts _ _
    · exact .refl _
  · refine (settleItem_acts ((switchBanks s).newItem origin mark).no _).trans ?_
    exact Acts.foldl _ (fun _ => True) (fun s t _ => takeUp_acts _ _ t s) (fun _ _ _ _ => trivial) _ _ trivial

theorem makeItem_acts (creating : p ≠ .settling) (origin : Origin) (mark : Pos) (s : State) (mode : s.run.mode = .run)
    (room : s.iq.items.length < Config.itemCapacity) : Acts p s (makeItem origin mark s) := by
  refine (Acts.switch s creating mode).trans ?_
  refine (Acts.join _ ((switchBanks s).newItem origin mark) creating (by rw [switchBanks_iq]; exact room)
    (by rw [switchBanks_run]; exact mode) rfl).trans ?_
  exact makeItem_settling origin mark s

theorem createItem_acts (creating : p ≠ .settling) (origin : Origin) (mark : Pos) (s : State)
    (mode : s.run.mode = .run) : Acts p s (createItem origin mark s).1 := by
  unfold createItem
  split
  · exact .offer s _
  · exact makeItem_acts creating origin mark s mode (by omega)

/-! ### What acts leave: the mode outside a drain, and the detector -/

theorem enterConfigure_mkd (reason : ModeReason) (gone : Removed) (s : State) :
    (enterConfigure reason gone s).mkd = s.mkd.toIdle := by
  unfold enterConfigure State.offerMode activateAtConfigure
  dsimp only
  split <;> simp [State.offerBank, State.modBank, dropCursors, actuatorsOff, State.mapStationRuns, State.mapWindowRuns,
    State.mapBanks, State.mapLines]

theorem enterFault_mkd (cause : Cause) (s : State) : (enterFault cause s).mkd = s.mkd.toIdle := by
  unfold enterFault State.offerFault cancelAtFault
  dsimp only
  split <;> simp [State.offerBank, State.modBank, actuatorsOff, State.mapStationRuns, State.mapBanks, State.mapLines]

/-- Without faults, run control changes only when a drain ends. -/
theorem Acts.run_eq {s t : State} (h : Acts p s t) (level : p ≠ .faults) (mode : s.run.mode ≠ .stopping) : t.run = s.run := by
  induction h with
  | refl s => rfl
  | trans _ _ h1 h2 => rw [h2 (by rw [h1 mode]; exact mode), h1 mode]
  | offer s body => simp
  | detector s m allowed cfg idle => rfl
  | item s no f bank num => rfl
  | join s i creating room hm num => rfl
  | retire s i rest body head => simp [bankRetired, State.modBank]
  | station s b n f on => rfl
  | window s b w f => rfl
  | latch s l v hm => rfl
  | switch s creating hm => exact switchBanks_run s
  | drained s hm empty => exact absurd hm mode
  | fault s c allowed hm => exact absurd allowed level
  | cause s c allowed hm => exact absurd allowed level

end Sys2Proof.Machine
end

