-- ==== Sys2Proof/Laws/Marks.lean ====
section
/-! SUPPORT. The operations of the detector and the tasks of one count or sub-step are made of acts. -/

namespace Sys2Proof.Machine

variable {p : Power}

/-- In RUN, acts without faults stay in RUN. -/
theorem Acts.mode_run {s t : State} (h : Acts .marks s t) (mode : s.run.mode = .run) : t.run.mode = .run := by
  rw [h.run_eq (by decide) (by rw [mode]; decide), mode]

/-- An operation that is made of acts in RUN, and keeps RUN, followed by another. -/
theorem Acts.then {s t u : State} (mode : s.run.mode = .run) (h : Acts .marks s t)
    (k : t.run.mode = .run → Acts .marks t u) : Acts .marks s u := h.trans (k (h.mode_run mode))

theorem requestItem_acts (origin : Origin) (mark : Pos) (update : Mkd → Mkd) (dev : Int) (nm : Bool) (s : State)
    (cfg : ∀ m, (update m).cfg = m.cfg) (mode : s.run.mode = .run) :
    Acts .marks s (requestItem origin mark update dev nm s) := by
  unfold requestItem
  refine Acts.then mode (createItem_acts (by decide) origin mark s mode) fun h => ?_
  dsimp only
  exact (Acts.detector _ { update (createItem origin mark s).1.mkd with lastCreated := (createItem origin mark s).2 }
    (by decide) (cfg _) (.inr h)).trans (.offer _ _)

theorem missMark_acts (s : State) (mode : s.run.mode = .run) : Acts .marks s (missMark s) := by
  unfold missMark
  split
  · exact requestItem_acts _ _ _ _ _ s (fun m => rfl) mode
  · exact (Acts.offer s _).trans (.detector _ _ (by decide) rfl (.inr (by simpa using mode)))

theorem closeLoop_acts : ∀ (fuel : Nat) (s : State), s.run.mode = .run → Acts .marks s (closeLoop fuel s)
  | 0, s, _ => .refl s
  | fuel + 1, s, mode => by
    unfold closeLoop
    split
    · split
      · exact .detector s _ (by decide) rfl (.inr mode)
      · exact Acts.then mode (missMark_acts s mode) fun h => closeLoop_acts fuel _ h
    · exact .refl s

theorem closeTest_acts (s : State) (mode : s.run.mode = .run) : Acts .marks s (closeTest s) := closeLoop_acts _ s mode

theorem acceptLocked_acts (lead : Pos) (dev : Int) (nm : Bool) (s : State) (mode : s.run.mode = .run) :
    Acts .marks s (acceptLocked lead dev nm s) := by
  unfold acceptLocked
  refine Acts.then mode (requestItem_acts _ _ _ _ _ s ?_ mode) fun h => closeTest_acts _ h
  exact fun m => rfl

theorem judgeSearch_acts (lead : Pos) (s : State) (mode : s.run.mode = .run) : Acts .marks s (judgeSearch lead s) := by
  unfold judgeSearch
  split
  · split
    · split
      · exact requestItem_acts _ _ _ _ _ s (fun m => rfl) mode
      · exact .offer s _
    · exact requestItem_acts _ _ _ _ _ s (fun m => rfl) mode
  · exact acceptLocked_acts _ _ _ s mode

theorem judgeLocked_acts (lead : Pos) (s : State) (mode : s.run.mode = .run) : Acts .marks s (judgeLocked lead s) := by
  unfold judgeLocked
  split
  · exact acceptLocked_acts _ _ _ s mode
  · exact .offer s _

theorem judgeState_acts (lead : Pos) (s : State) (mode : s.run.mode = .run) : Acts .marks s (judgeState lead s) := by
  unfold judgeState
  split
  · exact .refl s
  · exact .refl s
  · exact judgeSearch_acts lead s mode
  · exact judgeLocked_acts lead s mode
  · exact judgeLocked_acts lead s mode

theorem closeBefore_acts (lead : Pos) (s : State) (mode : s.run.mode = .run) : Acts .marks s (closeBefore lead s) := by
  unfold closeBefore
  split
  · exact closeTest_acts s mode
  · exact .refl s

theorem judge_acts (lead : Pos) (s : State) (mode : s.run.mode = .run) : Acts .marks s (judge lead s) := by
  unfold judge
  refine Acts.then mode (.detector s { s.mkd with candidate := none, deferred := false } (by decide) rfl (.inr mode)) fun h => ?_
  refine Acts.then h (closeBefore_acts lead _ h) fun h => ?_
  dsimp only
  split
  · split
    · exact judgeState_acts lead _ h
    · exact .offer _ _
  · exact judgeState_acts lead _ h

theorem qualify_acts (s : State) (mode : s.run.mode = .run) : Acts .marks s (qualify s) := by
  unfold qualify
  split
  · exact .refl s
  · split
    · exact judge_acts _ s mode
    · exact .refl s

theorem releaseLastAccepted_acts (s : State) (mode : s.run.mode = .run) : Acts .marks s (releaseLastAccepted s) := by
  unfold releaseLastAccepted
  split
  · split
    · exact .detector s _ (by decide) rfl (.inr mode)
    · exact .refl s
  · exact .refl s

theorem markEdge_acts (s : State) (mode : s.run.mode = .run) : Acts .marks s (markEdge s) := by
  unfold markEdge
  split
  · exact .refl s
  · split
    · split
      · exact judge_acts _ s mode
      · exact .detector s _ (by decide) rfl (.inr mode)
    · exact .offer s _

theorem levelLoss_acts (s : State) (mode : s.run.mode = .run) : Acts .marks s (levelLoss s) := by
  unfold levelLoss
  split
  · exact .refl s
  · rename_i lead _
    dsimp only
    refine Acts.then mode (Acts.offer s (.stray .short lead s.lei.reach s.mkd.state 0#32)) fun h => ?_
    refine Acts.then h (Acts.detector _ { s.mkd with candidate := none, deferred := false } (by decide) (by simp) (.inr h)) fun h => ?_
    split
    · refine Acts.trans (Acts.then h (missMark_acts _ h) fun h => closeTest_acts _ h) ?_
      exact .of_eq (by simp [State.offerStray])
    · exact .of_eq (by simp [State.offerStray])

/-- An edge at the detector, in any mode: outside RUN it is not seen. -/
theorem detectorEdge_acts (input : Fin 4) (active : Bool) (s : State) (idle : s.detectorIdle) :
    Acts .marks s (detectorEdge input active s) := by
  unfold detectorEdge
  split
  · rename_i h
    have mode : s.run.mode = .run := by
      by_contra hm
      rw [idle hm] at h
      simp [DetState.sees] at h
    split
    · exact markEdge_acts s mode
    · exact levelLoss_acts s mode
  · exact .refl s

/-! ### Every act keeps the detector IDLE outside RUN -/

theorem Acts.detectorIdle {s t : State} (h : Acts p s t) (idle : s.detectorIdle) : t.detectorIdle := by
  induction h with
  | refl s => exact idle
  | trans _ _ h1 h2 => exact h2 (h1 idle)
  | offer s body => simpa [State.detectorIdle] using idle
  | detector s m allowed cfg hi =>
    intro hm
    rcases hi with hi | hi
    · exact hi
    · exact absurd hi hm
  | item s no f bank num => exact idle
  | join s i creating room hm num => exact idle
  | retire s i rest body head => simpa [State.detectorIdle, bankRetired, State.modBank] using idle
  | station s b n f on => exact idle
  | window s b w f => exact idle
  | latch s l v hm => exact idle
  | switch s creating hm =>
    intro h
    rw [switchBanks_run] at h
    exact absurd hm h
  | drained s hm empty => intro _; rw [enterConfigure_mkd]; rfl
  | fault s c allowed hm => intro _; rw [enterFault_mkd]; rfl
  | cause s c allowed hm =>
    intro _
    have := idle (by rw [hm]; decide)
    simpa [addCause, State.offerFault] using this

/-! ### Tasks -/

theorem raiseCause_acts (cause : Cause) (s : State) : Acts .faults s (raiseCause cause s) := by
  unfold raiseCause
  split
  · exact .refl s
  · rename_i h; exact .fault s cause rfl (by simp [State.running, h, Mode.running])
  · rename_i h; exact .fault s cause rfl (by simp [State.running, h, Mode.running])
  · rename_i h; exact .cause s cause rfl h

/-- Outside RUN the close test finds no window. -/
theorem closeTest_idle (s : State) (idle : s.mkd.state = .idle) : closeTest s = s := by
  unfold closeTest closeLoop
  simp [State.windowPassed, idle, DetState.locked]

theorem qualify_idle (s : State) (idle : s.mkd.state = .idle) : qualify s = s := by
  unfold qualify
  split
  · rfl
  · simp [idle, DetState.sees]

theorem releaseLastAccepted_idle (s : State) (idle : s.mkd.state = .idle) : releaseLastAccepted s = s := by
  unfold releaseLastAccepted
  simp [idle]

/-- What runs only while the part is running, and is made of acts when RUN holds or the detector is IDLE. -/
theorem whileRunning_acts (f : State → State) (s : State) (h : s.running = true → Acts p s (f s)) :
    Acts p s (whileRunning f s) := by
  unfold whileRunning
  split
  · rename_i hr; exact h hr
  · exact .refl s

theorem inRunOrIdle (f : State → State) (s : State) (idle : s.detectorIdle)
    (inRun : s.run.mode = .run → Acts .marks s (f s)) (same : s.mkd.state = .idle → f s = s) : Acts .marks s (f s) := by
  by_cases h : s.run.mode = .run
  · exact inRun h
  · exact .of_eq (same (idle h))

/-- Each task but the reverse limit is made of acts without faults. -/
theorem Task.run_marks (note : Option NoticeBody) (t : Task) (s : State) (idle : s.detectorIdle) (h : t ≠ .reverseLimit) :
    Acts .marks s (t.run note s) := by
  cases t with
  | motion =>
    unfold Task.run
    dsimp only
    split
    · exact .refl s
    · exact .offer s _
  | reverseLimit => exact absurd rfl h
  | markRelease =>
    exact whileRunning_acts _ s fun _ => inRunOrIdle _ s idle (releaseLastAccepted_acts s) (releaseLastAccepted_idle s)
  | markQualify => exact whileRunning_acts _ s fun _ => inRunOrIdle _ s idle (qualify_acts s) (qualify_idle s)
  | markClose => exact whileRunning_acts _ s fun _ => inRunOrIdle _ s idle (closeTest_acts s) (closeTest_idle s)
  | verdicts => exact whileRunning_acts _ s fun _ => closeVerdicts_acts s
  | window b w => exact whileRunning_acts _ s fun _ => windowAdvance_acts b w s
  | pulseEnd b n => exact whileRunning_acts _ s fun _ => distanceEnd_acts b n s
  | station b n => exact whileRunning_acts _ s fun _ => stationTest_acts b n s

/-- Each task of a count or a sub-step is made of acts. -/
theorem Task.run_acts (note : Option NoticeBody) (t : Task) (s : State) (idle : s.detectorIdle) :
    Acts .faults s (t.run note s) := by
  by_cases h : t = .reverseLimit
  · subst h
    refine whileRunning_acts _ s fun _ => ?_
    split
    · exact raiseCause_acts _ s
    · exact .refl s
  · exact (t.run_marks note s idle h).mono

/-- The tasks of an event without a reverse count leave out the reverse limit. -/
theorem eventTasks_no_limit (before after : State) : ∀ t ∈ eventTasks false before after, t ≠ .reverseLimit := by
  intro t ht
  unfold eventTasks at ht
  simp only [Bool.false_eq_true, if_false, List.nil_append, List.cons_append, List.mem_cons] at ht
  rcases ht with rfl | ht
  · decide
  · split at ht
    · simp only [leadTasks, List.mem_map] at ht
      obtain ⟨_, _, rfl⟩ := ht
      simp
    · simp only [reachTasks, List.mem_append, List.mem_cons, List.mem_map, List.not_mem_nil, or_false] at ht
      rcases ht with ((h | ⟨_, _, h⟩) | ⟨_, _, h⟩) | ⟨_, _, h⟩
      · rcases h with rfl | rfl | rfl | rfl <;> decide
      all_goals (subst h; simp)

/-- Tasks one after another, the reverse limit not among them. -/
theorem tasks_marks (note : Option NoticeBody) : ∀ (ts : List Task) (s : State), s.detectorIdle →
    (∀ t ∈ ts, t ≠ .reverseLimit) → Acts .marks s (ts.foldl (fun s t => t.run note s) s)
  | [], s, _, _ => .refl s
  | t :: ts, s, idle, h => by
    have a := t.run_marks note s idle (h t List.mem_cons_self)
    exact a.trans (tasks_marks note ts _ (a.mono.detectorIdle idle) fun u hu => h u (List.mem_cons_of_mem _ hu))

/-- An event at LEI that is no reverse count: the new state of LEI, and acts without faults. -/
theorem leiEvent_marks (l : Lei) (s : State) (idle : s.detectorIdle) : Acts .marks (s.withLei l) (leiEvent false l s) :=
  tasks_marks _ _ _ idle fun t ht => eventTasks_no_limit s (s.withLei l) t (mem_of_mem_arrange ht)

/-- An event at LEI: the new state of LEI, and acts. -/
theorem leiEvent_acts (reverse : Bool) (l : Lei) (s : State) (idle : s.detectorIdle) :
    Acts .faults (s.withLei l) (leiEvent reverse l s) :=
  Acts.foldl _ State.detectorIdle (fun s t h => t.run_acts _ s h) (fun _ _ h a => a.detectorIdle h) _ _ idle

end Sys2Proof.Machine
end

