-- ==== Sys2Proof/Laws/Frame.lean ====
section
/-! SUPPORT. Acts leave alone what State.fixed shows: the frame of every event of the tracking core, said once. -/

namespace Sys2Proof.Machine

variable {p : Power}

/-- The blanked state from its parts. -/
theorem State.fixed_congr {s t : State}
    (pending : t.pending = s.pending) (partTime : t.partTime = s.partTime) (fine : t.fine = s.fine)
    (pins : t.pins = s.pins) (samples : t.samples = s.samples) (sched : t.sched = s.sched)
    (lei : { t.lei with reach := 0#32, subTimer := none } = { s.lei with reach := 0#32, subTimer := none })
    (sns : t.sns = s.sns) (mkd : t.mkd.cfg = s.mkd.cfg)
    (banks : mapV Bank.recipe t.banks = mapV Bank.recipe s.banks)
    (act : mapV (fun l : Line => { l with latch := false }) t.act = mapV (fun l : Line => { l with latch := false }) s.act)
    (flt : t.run.flt = s.run.flt) (classes : t.ntq.classes = s.ntq.classes)
    (slk : { t.slk with responses := [], tx := .idle } = { s.slk with responses := [], tx := .idle }) :
    t.fixed = s.fixed := by
  unfold State.fixed
  rw [pending, partTime, fine, pins, samples, sched, lei, sns, mkd, banks, act, flt, classes, slk]

theorem serve_fixed (s : State) : (serve s).fixed = s.fixed := by
  obtain ⟨n, l, h, hc, -, hl⟩ := serve_cases s
  rw [h]
  exact State.fixed_congr rfl rfl rfl rfl rfl rfl rfl rfl rfl rfl rfl rfl hc (by simp only [State.withSlk_slk]; rw [hl])

theorem offer_fixed (s : State) (body : NoticeBody) : (s.offer body).fixed = s.fixed := by
  obtain ⟨n, l, h, hc, hl⟩ := offer_cases s body
  rw [h]
  exact State.fixed_congr rfl rfl rfl rfl rfl rfl rfl rfl rfl rfl rfl rfl hc (by simp only [State.withSlk_slk]; rw [hl])

theorem modBank_fixed (s : State) (b : Fin 2) (f : Bank → Bank) (h : ∀ k, (f k).recipe = k.recipe) :
    (s.modBank b f).fixed = s.fixed :=
  State.fixed_congr rfl rfl rfl rfl rfl rfl rfl rfl rfl (mapV_set_of_eq _ _ _ _ _ (h _)) rfl rfl rfl rfl

theorem mapBanks_fixed (s : State) (f : Bank → Bank) (h : ∀ k, (f k).recipe = k.recipe) :
    (s.mapBanks f).fixed = s.fixed :=
  State.fixed_congr rfl rfl rfl rfl rfl rfl rfl rfl rfl
    (by simp only [State.mapBanks, State.withBanks_banks, mapV_mapV]; exact mapV_congr h _) rfl rfl rfl rfl

theorem recipe_modStation (n : Fin 16) (f : StationRun → StationRun) (k : Bank) :
    (Bank.modStation n (fun st => { st with run := f st.run }) k).recipe = k.recipe := by
  unfold Bank.recipe Bank.modStation
  simp only [Bank.mk.injEq, and_true]
  exact mapV_set_of_eq _ _ _ _ _ rfl

theorem recipe_modWindow (w : Fin 4) (f : WindowRun → WindowRun) (k : Bank) :
    (Bank.modWindow w (fun wd => { wd with run := f wd.run }) k).recipe = k.recipe := by
  unfold Bank.recipe Bank.modWindow
  simp only [Bank.mk.injEq, and_true, true_and]
  exact mapV_set_of_eq _ _ _ _ _ rfl

theorem modStationRun_fixed (s : State) (b : Fin 2) (n : Fin 16) (f : StationRun → StationRun) :
    (s.modStationRun b n f).fixed = s.fixed := modBank_fixed s b _ (recipe_modStation n f)

theorem modWindowRun_fixed (s : State) (b : Fin 2) (w : Fin 4) (f : WindowRun → WindowRun) :
    (s.modWindowRun b w f).fixed = s.fixed := modBank_fixed s b _ (recipe_modWindow w f)

theorem mapStationRuns_fixed (s : State) (f : StationRun → StationRun) : (s.mapStationRuns f).fixed = s.fixed :=
  mapBanks_fixed s _ fun k => by
    unfold Bank.recipe
    simp only [mapV_mapV]

theorem mapWindowRuns_fixed (s : State) (f : WindowRun → WindowRun) : (s.mapWindowRuns f).fixed = s.fixed :=
  mapBanks_fixed s _ fun k => by
    unfold Bank.recipe
    simp only [mapV_mapV]

theorem mapLatches_fixed (s : State) : (s.mapLines fun l => { l with latch := false }).fixed = s.fixed :=
  State.fixed_congr rfl rfl rfl rfl rfl rfl rfl rfl rfl rfl
    (by simp only [State.mapLines, State.withAct_act, mapV_mapV]) rfl rfl rfl

theorem actuatorsOff_fixed (s : State) : (actuatorsOff s).fixed = s.fixed := by
  unfold actuatorsOff
  rw [mapLatches_fixed, mapStationRuns_fixed]

theorem dropCursors_fixed (s : State) : (dropCursors s).fixed = s.fixed := by
  unfold dropCursors
  rw [mapWindowRuns_fixed, mapStationRuns_fixed]

theorem offerBank_fixed (s : State) (e : BankEvent) (b : Fin 2) (first : ItemNo) :
    (s.offerBank e b first).fixed = s.fixed := offer_fixed s _

theorem switchBanks_fixed (s : State) : (switchBanks s).fixed = s.fixed := by
  unfold switchBanks
  split
  · rfl
  · rw [offerBank_fixed, modBank_fixed _ _ (Bank.activate _ _) fun k => rfl, modBank_fixed _ _ Bank.displace fun k => rfl]

theorem activateAtConfigure_fixed (s : State) : (activateAtConfigure s).fixed = s.fixed := by
  unfold activateAtConfigure
  split
  · rfl
  · rw [offerBank_fixed, modBank_fixed _ _ (Bank.activate _ _) fun k => rfl]
    exact modBank_fixed _ _ (fun k => { k with state := .idle }) fun k => rfl

theorem cancelAtFault_fixed (s : State) : (cancelAtFault s).fixed = s.fixed := by
  unfold cancelAtFault
  split
  · rfl
  · rw [offerBank_fixed]
    exact modBank_fixed _ _ (fun k => { k with state := .idle }) fun k => rfl

theorem enterConfigure_fixed (reason : ModeReason) (gone : Removed) (s : State) :
    (enterConfigure reason gone s).fixed = s.fixed := by
  unfold enterConfigure State.offerMode
  dsimp only
  rw [offer_fixed, activateAtConfigure_fixed]
  refine Eq.trans (b := (dropCursors (actuatorsOff (s.withRun { s.run with mode := .configure, drain := none }))).fixed) ?_ ?_
  · exact State.fixed_congr rfl rfl rfl rfl rfl rfl rfl rfl rfl rfl rfl rfl rfl rfl
  · rw [dropCursors_fixed, actuatorsOff_fixed]
    exact State.fixed_congr rfl rfl rfl rfl rfl rfl rfl rfl rfl rfl rfl rfl rfl rfl

theorem removeItems_fixed (s : State) : (removeItems s).1.fixed = s.fixed := by
  unfold removeItems
  refine Eq.trans (b := ((dropCursors s).mapBanks Bank.emptied).fixed) ?_ ?_
  · exact State.fixed_congr rfl rfl rfl rfl rfl rfl rfl rfl rfl rfl rfl rfl rfl rfl
  · rw [mapBanks_fixed _ Bank.emptied fun k => rfl, dropCursors_fixed]

theorem flushTo_fixed (reason : ModeReason) (s : State) : (flushTo reason s).fixed = s.fixed := by
  unfold flushTo
  rw [enterConfigure_fixed, removeItems_fixed]

theorem enterFault_fixed (cause : Cause) (s : State) : (enterFault cause s).fixed = s.fixed := by
  unfold enterFault State.offerFault
  dsimp only
  rw [offer_fixed, cancelAtFault_fixed, actuatorsOff_fixed]
  exact State.fixed_congr rfl rfl rfl rfl rfl rfl rfl rfl rfl rfl rfl rfl rfl rfl

/-- The frame of everything that is made of acts. -/
theorem Acts.fixed {s t : State} (h : Acts p s t) : t.fixed = s.fixed := by
  induction h with
  | refl s => rfl
  | trans _ _ h1 h2 => rw [h2, h1]
  | offer s body => exact offer_fixed s body
  | detector s m allowed cfg idle => exact State.fixed_congr rfl rfl rfl rfl rfl rfl rfl rfl cfg rfl rfl rfl rfl rfl
  | item s no f bank num => exact State.fixed_congr rfl rfl rfl rfl rfl rfl rfl rfl rfl rfl rfl rfl rfl rfl
  | join s i creating room mode num =>
    refine (modBank_fixed _ i.bank (fun k => { k with count := k.count + 1 }) fun k => rfl).trans ?_
    exact State.fixed_congr rfl rfl rfl rfl rfl rfl rfl rfl rfl rfl rfl rfl rfl rfl
  | retire s i rest body head =>
    refine (modBank_fixed _ i.bank Bank.release fun k => rfl).trans ((offer_fixed _ _).trans ?_)
    exact State.fixed_congr rfl rfl rfl rfl rfl rfl rfl rfl rfl rfl rfl rfl rfl rfl
  | station s b n f on => exact modStationRun_fixed s b n f
  | window s b w f => exact modWindowRun_fixed s b w f
  | latch s l v mode =>
    exact State.fixed_congr rfl rfl rfl rfl rfl rfl rfl rfl rfl rfl (mapV_set_of_eq _ _ _ _ _ rfl) rfl rfl rfl
  | switch s creating mode => exact switchBanks_fixed s
  | drained s mode empty => exact enterConfigure_fixed _ _ s
  | fault s c allowed mode => exact enterFault_fixed c s
  | cause s c allowed mode =>
    refine (offer_fixed _ _).trans ?_
    exact State.fixed_congr rfl rfl rfl rfl rfl rfl rfl rfl rfl rfl rfl rfl rfl rfl

end Sys2Proof.Machine
end

