-- ==== Sys2Proof/Laws/Modes.lean ====
section
/-! SUPPORT. What the changes of mode do to each block, said once. -/

namespace Sys2Proof.Machine

/-! ### Which bank is ARMED -/

theorem armedBank_none {s : State} (h : s.armedBank = none) (b : Fin 2) : (s.bank b).state ≠ .armed := by
  have := List.find?_eq_none.mp h b (by fin_cases b <;> decide)
  simpa using this

theorem armedBank_some {s : State} {b : Fin 2} (h : s.armedBank = some b) : (s.bank b).state = .armed := by
  simpa using List.find?_some h

theorem otherBank_ne (b : Fin 2) : otherBank b ≠ b := by fin_cases b <;> decide

theorem eq_or_other (b c : Fin 2) : c = b ∨ c = otherBank b := by fin_cases b <;> fin_cases c <;> decide

/-- Two states that agree on both banks have the same bank ARMED. -/
theorem armedBank_congr {s t : State} (h : ∀ b, (t.bank b).state = (s.bank b).state) : t.armedBank = s.armedBank := by
  unfold State.armedBank
  congr 1
  funext b
  rw [h b]

/-- An act on one bank leaves the stations and windows of both. -/
theorem modBank_station (s : State) (b c : Fin 2) (n : Fin 16) (f : Bank → Bank) (h : ∀ k, (f k).stations = k.stations) :
    (s.modBank b f).station c n = s.station c n := by
  simp only [State.station, State.modBank_bank]
  split
  · rename_i e; subst e; simp only [h]
  · rfl

theorem modBank_window (s : State) (b c : Fin 2) (w : Fin 4) (f : Bank → Bank) (h : ∀ k, (f k).windows = k.windows) :
    (s.modBank b f).window c w = s.window c w := by
  simp only [State.window, State.modBank_bank]
  split
  · rename_i e; subst e; simp only [h]
  · rfl

theorem mapBanks_station (s : State) (c : Fin 2) (n : Fin 16) (f : Bank → Bank) (h : ∀ k, (f k).stations = k.stations) :
    (s.mapBanks f).station c n = s.station c n := by
  simp only [State.station, State.mapBanks_bank, h]

theorem mapBanks_window (s : State) (c : Fin 2) (w : Fin 4) (f : Bank → Bank) (h : ∀ k, (f k).windows = k.windows) :
    (s.mapBanks f).window c w = s.window c w := by
  simp only [State.window, State.mapBanks_bank, h]

/-! ### Updates of run state leave the banks' own entries -/

@[simp] theorem modStationRun_bank_entries (s : State) (b c : Fin 2) (n : Fin 16) (f : StationRun → StationRun) :
    ((s.modStationRun b n f).bank c).state = (s.bank c).state ∧ ((s.modStationRun b n f).bank c).count = (s.bank c).count ∧
      ((s.modStationRun b n f).bank c).activation = (s.bank c).activation := by
  simp only [State.modStationRun, State.modStation, State.modBank_bank]
  split
  · rename_i e; subst e; exact ⟨rfl, rfl, rfl⟩
  · exact ⟨rfl, rfl, rfl⟩

@[simp] theorem modWindowRun_bank_entries (s : State) (b c : Fin 2) (w : Fin 4) (f : WindowRun → WindowRun) :
    ((s.modWindowRun b w f).bank c).state = (s.bank c).state ∧ ((s.modWindowRun b w f).bank c).count = (s.bank c).count ∧
      ((s.modWindowRun b w f).bank c).activation = (s.bank c).activation := by
  simp only [State.modWindowRun, State.modWindow, State.modBank_bank]
  split
  · rename_i e; subst e; exact ⟨rfl, rfl, rfl⟩
  · exact ⟨rfl, rfl, rfl⟩

/-! ### The banks at a change of mode -/

/-- A bank after an ARMED bank has been activated at entry to CONFIGURE (R118). -/
def configuredBank (armed : Option (Fin 2)) (b : Fin 2) (k : Bank) : Bank :=
  match armed with
  | none => k
  | some a => if b = a then k.activate .switch 0#16 else { k with state := .idle }

theorem activateAtConfigure_bank (s : State) (b : Fin 2) :
    (activateAtConfigure s).bank b = configuredBank s.armedBank b (s.bank b) := by
  unfold activateAtConfigure configuredBank
  cases s.armedBank with
  | none => rfl
  | some a =>
    simp only [State.offerBank, State.offer_bank, State.modBank_bank]
    rcases eq_or_other a b with e | e
    · subst e; simp [otherBank_ne]
    · subst e; simp [otherBank_ne, (otherBank_ne a).symm]

theorem activateAtConfigure_station (s : State) (b : Fin 2) (n : Fin 16) :
    (activateAtConfigure s).station b n = s.station b n := by
  unfold activateAtConfigure
  split
  · rfl
  · simp only [State.offerBank, State.offer_station]
    rw [modBank_station _ _ _ _ (Bank.activate .switch 0#16) fun k => rfl,
      modBank_station _ _ _ _ (fun k => { k with state := .idle }) fun k => rfl]

theorem activateAtConfigure_window (s : State) (b : Fin 2) (w : Fin 4) :
    (activateAtConfigure s).window b w = s.window b w := by
  unfold activateAtConfigure
  split
  · rfl
  · simp only [State.offerBank, State.offer_window]
    rw [modBank_window _ _ _ _ (Bank.activate .switch 0#16) fun k => rfl,
      modBank_window _ _ _ _ (fun k => { k with state := .idle }) fun k => rfl]

theorem activateAtConfigure_rest (s : State) :
    (activateAtConfigure s).run = s.run ∧ (activateAtConfigure s).iq = s.iq ∧ (activateAtConfigure s).mkd = s.mkd ∧
      (activateAtConfigure s).lei = s.lei ∧ (activateAtConfigure s).act = s.act := by
  unfold activateAtConfigure
  split <;> simp [State.offerBank, State.modBank]

/-- A bank after an ARMED bank has been cancelled at entry to FAULT (R119). -/
def cancelledBank (armed : Option (Fin 2)) (b : Fin 2) (k : Bank) : Bank :=
  match armed with
  | none => k
  | some a => if b = a then { k with state := .idle } else k

theorem cancelAtFault_bank (s : State) (b : Fin 2) :
    (cancelAtFault s).bank b = cancelledBank s.armedBank b (s.bank b) := by
  unfold cancelAtFault cancelledBank
  cases s.armedBank with
  | none => rfl
  | some a =>
    simp only [State.offerBank, State.offer_bank, State.modBank_bank]
    by_cases e : a = b
    · subst e; simp
    · simp [e, Ne.symm e]

theorem cancelAtFault_station (s : State) (b : Fin 2) (n : Fin 16) : (cancelAtFault s).station b n = s.station b n := by
  unfold cancelAtFault
  split
  · rfl
  · simp only [State.offerBank, State.offer_station]; exact modBank_station _ _ _ _ (fun k => { k with state := .idle }) fun k => rfl

theorem cancelAtFault_window (s : State) (b : Fin 2) (w : Fin 4) : (cancelAtFault s).window b w = s.window b w := by
  unfold cancelAtFault
  split
  · rfl
  · simp only [State.offerBank, State.offer_window]; exact modBank_window _ _ _ _ (fun k => { k with state := .idle }) fun k => rfl

theorem cancelAtFault_rest (s : State) :
    (cancelAtFault s).run = s.run ∧ (cancelAtFault s).iq = s.iq ∧ (cancelAtFault s).mkd = s.mkd ∧
      (cancelAtFault s).lei = s.lei ∧ (cancelAtFault s).act = s.act := by
  unfold cancelAtFault
  split <;> simp [State.offerBank, State.modBank]

/-! ### N_BANK at a change of mode (R118, R119) -/

/-- With its notices and its link as they were before an offer, a state is what it was. -/
theorem offer_undo (w : State) (body : NoticeBody) : ((w.offer body).withNtq w.ntq).withSlk w.slk = w := by
  obtain ⟨n, l, h, -⟩ := offer_cases w body
  rw [h]; rfl

/-- The cancellation of an ARMED bank, with N_BANK CANCEL. -/
theorem cancelAtFault_notice (s : State) :
    cancelAtFault s = match s.armedBank with
      | none => ((cancelAtFault s).withNtq s.ntq).withSlk s.slk
      | some b => (((cancelAtFault s).withNtq s.ntq).withSlk s.slk).offer (.bank .cancel b ((cancelAtFault s).bank 0).state
          ((cancelAtFault s).bank 0).count ((cancelAtFault s).bank 1).state ((cancelAtFault s).bank 1).count 0#16 s.lei.reach)
    := by
  unfold cancelAtFault
  cases s.armedBank with
  | none => rfl
  | some b =>
    dsimp only [State.offerBank]
    simp only [State.offer_bank]
    exact congrArg (State.offer _) (offer_undo (s.modBank b fun k => { k with state := .idle }) _).symm

/-- An ARMED bank taking effect, with N_BANK ACTIVATE. -/
theorem activateAtConfigure_notice (s : State) :
    activateAtConfigure s = match s.armedBank with
      | none => ((activateAtConfigure s).withNtq s.ntq).withSlk s.slk
      | some b => (((activateAtConfigure s).withNtq s.ntq).withSlk s.slk).offer (.bank .activate b
          ((activateAtConfigure s).bank 0).state ((activateAtConfigure s).bank 0).count ((activateAtConfigure s).bank 1).state
          ((activateAtConfigure s).bank 1).count 0#16 s.lei.reach) := by
  unfold activateAtConfigure
  cases s.armedBank with
  | none => rfl
  | some b =>
    dsimp only [State.offerBank]
    simp only [State.offer_bank]
    exact congrArg (State.offer _)
      (offer_undo ((s.modBank (otherBank b) fun k => { k with state := .idle }).modBank b (Bank.activate .switch 0#16)) _).symm

/-! ### Pulses, latches, cursors -/

theorem actuatorsOff_station (s : State) (b : Fin 2) (n : Fin 16) :
    (actuatorsOff s).station b n = { s.station b n with run := (s.station b n).run.endPulse .mode } := by
  have h : (actuatorsOff s).station b n = (s.mapStationRuns (StationRun.endPulse .mode)).station b n := rfl
  rw [h, State.mapStationRuns_station]

theorem actuatorsOff_window (s : State) (b : Fin 2) (w : Fin 4) : (actuatorsOff s).window b w = s.window b w := by
  have h : (actuatorsOff s).window b w = (s.mapStationRuns (StationRun.endPulse .mode)).window b w := rfl
  rw [h, State.mapStationRuns_window]

theorem actuatorsOff_line (s : State) (l : Fin 16) : (actuatorsOff s).line l = { s.line l with latch := false } := by
  unfold actuatorsOff
  rw [State.mapLines_line]
  rfl

theorem mapRuns_bank_entries (s : State) (f : StationRun → StationRun) (g : WindowRun → WindowRun) (b : Fin 2) :
    (((s.mapStationRuns f).mapWindowRuns g).bank b).state = (s.bank b).state ∧
      (((s.mapStationRuns f).mapWindowRuns g).bank b).count = (s.bank b).count ∧
      (((s.mapStationRuns f).mapWindowRuns g).bank b).activation = (s.bank b).activation := by
  simp [State.mapStationRuns, State.mapWindowRuns]

theorem actuatorsOff_bank_entries (s : State) (b : Fin 2) :
    ((actuatorsOff s).bank b).state = (s.bank b).state ∧ ((actuatorsOff s).bank b).count = (s.bank b).count ∧
      ((actuatorsOff s).bank b).activation = (s.bank b).activation := by
  have h : (actuatorsOff s).bank b = (s.mapStationRuns (StationRun.endPulse .mode)).bank b := rfl
  rw [h]
  simp [State.mapStationRuns]

theorem dropCursors_station (s : State) (b : Fin 2) (n : Fin 16) :
    (dropCursors s).station b n = { s.station b n with run := (s.station b n).run.dropCursor } := by
  unfold dropCursors
  rw [State.mapWindowRuns_station, State.mapStationRuns_station]

theorem dropCursors_window (s : State) (b : Fin 2) (w : Fin 4) :
    (dropCursors s).window b w = { s.window b w with run := (s.window b w).run.dropCursor } := by
  unfold dropCursors
  rw [State.mapWindowRuns_window, State.mapStationRuns_window]

theorem dropCursors_bank_entries (s : State) (b : Fin 2) :
    ((dropCursors s).bank b).state = (s.bank b).state ∧ ((dropCursors s).bank b).count = (s.bank b).count ∧
      ((dropCursors s).bank b).activation = (s.bank b).activation := mapRuns_bank_entries s _ _ b

/-! ### Entry to CONFIGURE -/

theorem actuatorsOff_rest (s : State) :
    (actuatorsOff s).run = s.run ∧ (actuatorsOff s).iq = s.iq ∧ (actuatorsOff s).mkd = s.mkd ∧
      (actuatorsOff s).lei = s.lei := ⟨rfl, rfl, rfl, rfl⟩

theorem dropCursors_rest (s : State) :
    (dropCursors s).run = s.run ∧ (dropCursors s).iq = s.iq ∧ (dropCursors s).mkd = s.mkd ∧
      (dropCursors s).lei = s.lei := ⟨rfl, rfl, rfl, rfl⟩

theorem dropCursors_line (s : State) (l : Fin 16) : (dropCursors s).line l = s.line l := rfl

/-- Pulses and latches ended and cursors emptied, from one state to another: the part of an entry to CONFIGURE that leaves the
banks' states alone (R66, R80, R84, R99). -/
theorem cleared_entries (w : State) :
    (∀ b n, (dropCursors (actuatorsOff w)).station b n =
      { w.station b n with run := ((w.station b n).run.endPulse .mode).dropCursor }) ∧
    (∀ b n, (dropCursors (actuatorsOff w)).window b n = { w.window b n with run := (w.window b n).run.dropCursor }) ∧
    (∀ l, (dropCursors (actuatorsOff w)).line l = { w.line l with latch := false }) ∧
    ∀ b, ((dropCursors (actuatorsOff w)).bank b).state = (w.bank b).state ∧
      ((dropCursors (actuatorsOff w)).bank b).count = (w.bank b).count ∧
      ((dropCursors (actuatorsOff w)).bank b).activation = (w.bank b).activation := by
  refine ⟨fun b n => ?_, fun b n => ?_, fun l => ?_, fun b => ?_⟩
  · rw [dropCursors_station, actuatorsOff_station]
  · rw [dropCursors_window, actuatorsOff_window]
  · rw [dropCursors_line, actuatorsOff_line]
  · have he := dropCursors_bank_entries (actuatorsOff w) b
    have ha := actuatorsOff_bank_entries w b
    exact ⟨he.1.trans ha.1, he.2.1.trans ha.2.1, he.2.2.trans ha.2.2⟩

/-- What an entry to CONFIGURE does before an ARMED bank is activated (Table 53). -/
theorem enterConfigure_before (reason : ModeReason) (gone : Removed) (s : State) :
    ∃ u : State, enterConfigure reason gone s = (activateAtConfigure u).offerMode s.run.mode reason gone none ∧
      u.run = { s.run with mode := .configure, drain := none } ∧ u.iq = s.iq ∧ u.mkd = s.mkd.toIdle ∧
      u.lei = { s.lei with reach := s.lei.position } ∧
      (∀ b n, u.station b n = { s.station b n with run := ((s.station b n).run.endPulse .mode).dropCursor }) ∧
      (∀ b w, u.window b w = { s.window b w with run := (s.window b w).run.dropCursor }) ∧
      (∀ l, u.line l = { s.line l with latch := false }) ∧ u.ntq = s.ntq ∧ u.slk = s.slk ∧
      ∀ b, (u.bank b).state = (s.bank b).state ∧ (u.bank b).count = (s.bank b).count ∧
        (u.bank b).activation = (s.bank b).activation := by
  obtain ⟨w, hw⟩ : ∃ w : State, w = s.withRun { s.run with mode := .configure, drain := none } := ⟨_, rfl⟩
  obtain ⟨d, hd⟩ : ∃ d : State, d = dropCursors (actuatorsOff w) := ⟨_, rfl⟩
  obtain ⟨hs, hv, hl, hb⟩ := cleared_entries w
  obtain ⟨a1, a2, a3, a4⟩ := actuatorsOff_rest w
  obtain ⟨d1, d2, d3, d4⟩ := dropCursors_rest (actuatorsOff w)
  rw [← hd] at hs hv hl hb d1 d2 d3 d4
  rw [a1] at d1; rw [a2] at d2; rw [a3] at d3; rw [a4] at d4
  refine ⟨(d.withMkd d.mkd.toIdle).withLei { d.lei with reach := d.lei.position }, ?_, ?_, ?_, ?_, ?_, ?_, ?_, ?_, ?_, ?_, ?_⟩
  · rw [hd, hw]; rfl
  · rw [State.withLei_run, State.withMkd_run, d1, hw]; rfl
  · rw [State.withLei_iq, State.withMkd_iq, d2, hw]; rfl
  · rw [State.withLei_mkd, State.withMkd_mkd, d3, hw]; rfl
  · rw [State.withLei_lei, d4, hw]; rfl
  · intro b n; rw [State.withLei_station, State.withMkd_station, hs, hw]; rfl
  · intro b n; rw [State.withLei_window, State.withMkd_window, hv, hw]; rfl
  · intro l; rw [State.withLei_line, State.withMkd_line, hl, hw]; rfl
  · rw [State.withLei_ntq, State.withMkd_ntq, hd, hw]; rfl
  · rw [State.withLei_slk, State.withMkd_slk, hd, hw]; rfl
  · intro b; rw [State.withLei_bank, State.withMkd_bank]; rw [hw] at hb; exact hb b

/-- Everything that an entry to CONFIGURE does, before its N_MODE (Table 53). -/
theorem enterConfigure_eq (reason : ModeReason) (gone : Removed) (s : State) :
    ∃ v : State, enterConfigure reason gone s = v.offer (.mode .configure s.run.mode reason gone.count gone.first gone.last
        s.lei.position s.lei.position v.activeBank none) ∧
      v.run = { s.run with mode := .configure, drain := none } ∧ v.iq = s.iq ∧ v.mkd = s.mkd.toIdle ∧
      v.lei = { s.lei with reach := s.lei.position } ∧
      (∀ b n, v.station b n = { s.station b n with run := ((s.station b n).run.endPulse .mode).dropCursor }) ∧
      (∀ b w, v.window b w = { s.window b w with run := (s.window b w).run.dropCursor }) ∧
      (∀ l, v.line l = { s.line l with latch := false }) ∧
      (v = match s.armedBank with
        | none => (v.withNtq s.ntq).withSlk s.slk
        | some b => ((v.withNtq s.ntq).withSlk s.slk).offer (.bank .activate b (v.bank 0).state (v.bank 0).count
            (v.bank 1).state (v.bank 1).count 0#16 s.lei.position)) ∧
      ∀ b, (v.bank b).count = (s.bank b).count ∧
        (v.bank b).state = (configuredBank s.armedBank b (s.bank b)).state ∧
        (v.bank b).activation = (configuredBank s.armedBank b (s.bank b)).activation := by
  obtain ⟨u, hu, u1, u2, u3, u4, u5, u6, u7, u9, u10, u8⟩ := enterConfigure_before reason gone s
  obtain ⟨h1, h2, h3, h4, h5⟩ := activateAtConfigure_rest u
  have harm : u.armedBank = s.armedBank := armedBank_congr fun b => (u8 b).1
  refine ⟨activateAtConfigure u, ?_, h1.trans u1, h2.trans u2, h3.trans u3, h4.trans u4, fun b n => ?_, fun b w => ?_,
    fun l => ?_, ?_, fun b => ?_⟩
  · rw [hu]; unfold State.offerMode
    rw [h1, h4, u1, u4]
    rfl
  · rw [activateAtConfigure_station, u5]
  · rw [activateAtConfigure_window, u6]
  · rw [← u7 l]; unfold State.line; rw [h5]
  · have n := activateAtConfigure_notice u
    rw [harm, u9, u10, u4] at n
    exact n
  · rw [activateAtConfigure_bank, harm]
    have hb := u8 b
    unfold configuredBank
    split
    · exact ⟨hb.2.1, hb.1, hb.2.2⟩
    · split
      · exact ⟨hb.2.1, rfl, rfl⟩
      · exact ⟨hb.2.1, rfl, hb.2.2⟩

/-! ### Entry to FAULT -/

/-- Everything that an entry to FAULT does, before its N_FAULT (Table 53, R130). -/
theorem enterFault_eq (cause : Cause) (s : State) :
    ∃ v : State, enterFault cause s = v.offer (.fault cause v.run.first v.run.faults s.run.mode s.lei.position s.lei.reach
        s.lei.motion s.iq.items.length s.headNo) ∧
      v.run = { s.run with mode := .fault, first := some cause, faults := FaultSet.empty.add cause, drain := none } ∧
      v.iq = s.iq ∧ v.mkd = s.mkd.toIdle ∧ v.lei = { s.lei with subTimer := none } ∧
      (∀ b n, v.station b n = { s.station b n with run := (s.station b n).run.endPulse .mode }) ∧
      (∀ b w, v.window b w = s.window b w) ∧ (∀ l, v.line l = { s.line l with latch := false }) ∧
      (v = match s.armedBank with
        | none => (v.withNtq s.ntq).withSlk s.slk
        | some b => ((v.withNtq s.ntq).withSlk s.slk).offer (.bank .cancel b (v.bank 0).state (v.bank 0).count
            (v.bank 1).state (v.bank 1).count 0#16 s.lei.reach)) ∧
      ∀ b, (v.bank b).count = (s.bank b).count ∧
        (v.bank b).state = (cancelledBank s.armedBank b (s.bank b)).state ∧
        (v.bank b).activation = (s.bank b).activation := by
  let d := (s.withRun { s.run with mode := .fault, first := some cause, faults := FaultSet.empty.add cause, drain := none }).withLei
    { s.lei with subTimer := none }
  let u := actuatorsOff (d.withMkd s.mkd.toIdle)
  have hu : enterFault cause s = (cancelAtFault u).offerFault cause s.run.mode := rfl
  obtain ⟨h1, h2, h3, h4, h5⟩ := cancelAtFault_rest u
  have harm : u.armedBank = s.armedBank := armedBank_congr fun b => (actuatorsOff_bank_entries _ b).1
  refine ⟨cancelAtFault u, ?_, h1, h2, h3, h4, fun b n => ?_, fun b w => ?_, fun l => ?_, ?_, fun b => ?_⟩
  · rw [hu]; unfold State.offerFault
    rw [show (cancelAtFault u).lei = _ from h4, State.headNo, h2]
    rfl
  · rw [cancelAtFault_station, actuatorsOff_station]; rfl
  · rw [cancelAtFault_window, actuatorsOff_window]; rfl
  · have : (cancelAtFault u).line l = u.line l := by unfold State.line; rw [h5]
    rw [this, actuatorsOff_line]; rfl
  · have n := cancelAtFault_notice u
    rw [harm] at n
    exact n
  · rw [cancelAtFault_bank, harm]
    have hb : (u.bank b).state = (s.bank b).state ∧ (u.bank b).count = (s.bank b).count ∧
        (u.bank b).activation = (s.bank b).activation := actuatorsOff_bank_entries _ b
    unfold cancelledBank
    split
    · exact ⟨hb.2.1, hb.1, hb.2.2⟩
    · split
      · exact ⟨hb.2.1, rfl, hb.2.2⟩
      · exact ⟨hb.2.1, hb.1, hb.2.2⟩

/-- No pulse is ON after one has ended. -/
@[simp] theorem endPulse_on (cause : EndCause) (r : StationRun) : (r.endPulse cause).on = false := by
  unfold StationRun.endPulse
  split <;> simp_all

end Sys2Proof.Machine
end

