-- ==== Sys2Proof/Laws/Keep.lean ====
section
/-! SUPPORT. The acts of the tracking core keep each of the conditions of Safety.lean. -/

namespace Sys2Proof.Machine

variable {p : Power}

/-! ### Capacities -/

/-- The notice queue and the request queue within their capacities, and at most k responses queued. -/
def State.linkWithin (k : Nat) (s : State) : Prop :=
  s.ntq.queue.length ≤ Config.noticeCapacity ∧ s.slk.requests.length ≤ Config.linkCapacity ∧
    s.slk.responses.length ≤ k

variable {k : Nat}

theorem State.linkWithin_congr {s t : State} (h : s.linkWithin k) (n : t.ntq = s.ntq) (l : t.slk = s.slk) : t.linkWithin k := by
  unfold State.linkWithin at *
  rw [n, l]; exact h

theorem takeNotice_length {q rest : List Notice} {n : Notice} (h : takeNotice q = some (n, rest)) : rest.length ≤ q.length := by
  unfold takeNotice at h
  split at h
  · cases h; exact (List.eraseP_sublist).length_le
  · cases h

theorem serve_linkWithin {s : State} (h : s.linkWithin k) : (serve s).linkWithin k := by
  obtain ⟨h1, h2, h3⟩ := h
  unfold serve
  split
  · exact ⟨h1, h2, h3⟩
  · split
    · rename_i r rest hr
      rw [hr, List.length_cons] at h3
      exact ⟨h1, h2, Nat.le_of_succ_le h3⟩
    · split
      · exact ⟨h1, h2, h3⟩
      · exact ⟨h1, h2, h3⟩
      · rename_i hn _ _ _
        exact ⟨(takeNotice_length (by assumption)).trans h1, h2, h3⟩

theorem foldl_min_mem : ∀ (l : List Notice) (m : Nat), l.foldl (fun m n => min m n.cls) m = m ∨
    ∃ n ∈ l, n.cls = l.foldl (fun m n => min m n.cls) m
  | [], _ => .inl rfl
  | a :: l, m => by
    rcases foldl_min_mem l (min m a.cls) with e | ⟨n, hn, e⟩
    · simp only [List.foldl_cons, e]
      rcases Nat.le_total m a.cls with c | c
      · exact .inl (Nat.min_eq_left c)
      · exact .inr ⟨a, List.mem_cons_self, by rw [Nat.min_eq_right c]⟩
    · exact .inr ⟨n, List.mem_cons_of_mem _ hn, e⟩

/-- The lowest class of a queue that is not empty is the class of one of its notices. -/
theorem lowestClass_mem {q : List Notice} (h : q ≠ []) : ∃ n ∈ q, n.cls = lowestClass q := by
  cases q with
  | nil => exact absurd rfl h
  | cons a l =>
    rcases foldl_min_mem l a.cls with e | ⟨n, hn, e⟩
    · exact ⟨a, List.mem_cons_self, e.symm⟩
    · exact ⟨n, List.mem_cons_of_mem _ hn, e⟩

theorem dropNewest_length_lt {q : List Notice} (h : q ≠ []) : (dropNewest (lowestClass q) q).length < q.length := by
  obtain ⟨n, hn, e⟩ := lowestClass_mem h
  unfold dropNewest
  rw [List.length_reverse, List.length_eraseP]
  have : q.reverse.any (fun n => n.cls == lowestClass q) = true := by
    rw [List.any_eq_true]; exact ⟨n, List.mem_reverse.mpr hn, by simp [e]⟩
  rw [this]
  have hp : 0 < q.length := List.length_pos_of_mem hn
  simp only [if_true, List.length_reverse]
  omega

/-- A queue within its capacity stays so when a notice joins it (R142, R143). -/
theorem enqueueNotice_length (n : Notice) {q : List Notice} (h : q.length ≤ Config.noticeCapacity) :
    (enqueueNotice n q).length ≤ Config.noticeCapacity := by
  unfold enqueueNotice
  split
  · rename_i hl; rw [List.length_append]; exact hl
  · split
    · rename_i hl hc
      rw [List.length_append, List.length_singleton]
      have := dropNewest_length_lt (q := q) (by rintro rfl; exact hl (by decide))
      omega
    · exact h

theorem offer_linkWithin {s : State} (h : s.linkWithin k) (body : NoticeBody) : (s.offer body).linkWithin k := by
  have hq : (s.ntq.offer s.partTime body).queue.length ≤ Config.noticeCapacity := by
    unfold Ntq.offer
    dsimp only
    split
    · exact h.1
    · exact enqueueNotice_length _ ((List.length_filter_le _ _).trans h.1)
  have h' : (s.withNtq (s.ntq.offer s.partTime body)).linkWithin k := ⟨hq, h.2.1, h.2.2⟩
  unfold State.offer
  dsimp only
  split
  · exact serve_linkWithin h'
  · exact h'

theorem activateAtConfigure_linkWithin {s : State} (h : s.linkWithin k) : (activateAtConfigure s).linkWithin k := by
  unfold activateAtConfigure
  split
  · exact h
  · unfold State.offerBank
    apply offer_linkWithin
    refine State.linkWithin_congr h ?_ ?_ <;> rfl

theorem enterConfigure_linkWithin {s : State} (h : s.linkWithin k) (reason : ModeReason) (gone : Removed) :
    (enterConfigure reason gone s).linkWithin k := by
  unfold enterConfigure State.offerMode
  apply offer_linkWithin
  apply activateAtConfigure_linkWithin
  refine State.linkWithin_congr h ?_ ?_ <;>
    simp [dropCursors, actuatorsOff, State.mapStationRuns, State.mapWindowRuns, State.mapBanks, State.mapLines]

theorem enterFault_linkWithin {s : State} (h : s.linkWithin k) (cause : Cause) : (enterFault cause s).linkWithin k := by
  unfold enterFault State.offerFault
  apply offer_linkWithin
  unfold cancelAtFault
  split
  · refine State.linkWithin_congr h ?_ ?_ <;> rfl
  · unfold State.offerBank
    apply offer_linkWithin
    refine State.linkWithin_congr h ?_ ?_ <;> rfl

theorem switchBanks_linkWithin {s : State} (h : s.linkWithin k) : (switchBanks s).linkWithin k := by
  unfold switchBanks
  split
  · exact h
  · unfold State.offerBank
    apply offer_linkWithin
    refine State.linkWithin_congr h ?_ ?_ <;> rfl

theorem Acts.linkWithin {s t : State} (h : Acts p s t) (b : s.linkWithin k) : t.linkWithin k := by
  induction h with
  | refl s => exact b
  | trans _ _ h1 h2 => exact h2 (h1 b)
  | offer s body => exact offer_linkWithin b body
  | detector s m allowed cfg idle => exact b
  | item s no f bank num => exact b
  | join s i creating room mode num => exact b
  | retire s i rest body head => 
    have hb : ((s.withIq { s.iq with items := rest }).offer body).linkWithin k := by
      apply offer_linkWithin
      refine State.linkWithin_congr b ?_ ?_ <;> rfl
    refine State.linkWithin_congr hb ?_ ?_ <;> rfl
  | station s b' n f on => exact b
  | window s b' w f => exact b
  | latch s l v mode => exact b
  | switch s creating mode => exact switchBanks_linkWithin b
  | drained s mode empty => exact enterConfigure_linkWithin b _ _
  | fault s c allowed mode => exact enterFault_linkWithin b c
  | cause s c allowed mode =>
    unfold addCause State.offerFault
    apply offer_linkWithin
    refine State.linkWithin_congr b ?_ ?_ <;> rfl

/-- The item queue within its capacity. -/
theorem Acts.itemsBounded {s t : State} (h : Acts p s t) (b : s.iq.items.length ≤ Config.itemCapacity) :
    t.iq.items.length ≤ Config.itemCapacity := by
  induction h with
  | refl s => exact b
  | trans _ _ h1 h2 => exact h2 (h1 b)
  | offer s body => simpa using b
  | detector s m allowed cfg idle => exact b
  | item s no f bank num => simpa [State.modItem] using b
  | join s i creating room mode num =>
    simp only [joinQueue, bankJoined, State.modBank, State.withBanks_iq, State.withIq_iq, List.length_append,
      List.length_singleton]
    exact room
  | retire s i rest body head =>
    simp only [bankRetired, State.modBank, State.withBanks_iq, State.offer_iq, State.withIq_iq]
    rw [head, List.length_cons] at b
    exact Nat.le_of_succ_le b
  | station s b' n f on => exact b
  | window s b' w f => exact b
  | latch s l v mode => exact b
  | switch s creating mode => rw [switchBanks_iq]; exact b
  | drained s mode empty =>
    obtain ⟨v, h, -, hi, -⟩ := enterConfigure_eq .drained .nothing s
    rw [h, State.offer_iq, hi]; exact b
  | fault s c allowed mode =>
    obtain ⟨v, h, -, hi, -⟩ := enterFault_eq c s
    rw [h, State.offer_iq, hi]; exact b
  | cause s c allowed mode =>
    unfold addCause State.offerFault
    simpa using b

/-! ### Banks -/

/-- What banksLegal reads of a state. -/
theorem State.banksLegal_congr {s t : State} (h : s.banksLegal) (mode : s.running = true → t.running = true)
    (state : ∀ b, (t.bank b).state = (s.bank b).state) (count : ∀ b, (t.bank b).count = (s.bank b).count) : t.banksLegal := by
  obtain ⟨h1, h2⟩ := h
  refine ⟨by rw [state, state]; exact h1, fun b => ⟨fun e => mode ((h2 b).1 (by rw [← state]; exact e)), fun e => ?_⟩⟩
  rw [count]; exact (h2 b).2 (by rw [← state]; exact e)

/-- With one bank ARMED the other is ACTIVE (R104). -/
theorem State.banksLegal.other {s : State} (h : s.banksLegal) {b : Fin 2} (a : (s.bank b).state = .armed) :
    (s.bank (otherBank b)).state = .active := by
  have h1 := h.1
  match b, a with
  | 0, a =>
    by_contra hne
    have := h1.mpr hne
    rw [a] at this; cases this
  | 1, a => exact h1.mpr (by rw [a]; decide)

/-- One bank becomes ACTIVE and the other neither ACTIVE nor ARMED. -/
theorem State.banksLegal_of_active {t : State} {b : Fin 2} (a : (t.bank b).state = .active)
    (o : (t.bank (otherBank b)).state ≠ .active) (n : (t.bank (otherBank b)).state ≠ .armed)
    (d : (t.bank (otherBank b)).state = .draining → (t.bank (otherBank b)).count ≠ 0) : t.banksLegal := by
  refine ⟨?_, fun c => ?_⟩
  · match b, a, o with
    | 0, a, o => exact ⟨fun _ => o, fun _ => a⟩
    | 1, a, o => exact ⟨fun e => absurd e o, fun e => absurd a e⟩
  · rcases eq_or_other b c with e | e
    · subst e; exact ⟨fun h => (by rw [a] at h; cases h), fun h => (by rw [a] at h; cases h)⟩
    · subst e; exact ⟨fun h => absurd h n, d⟩

theorem switchBanks_banksLegal {s : State} (h : s.banksLegal) : (switchBanks s).banksLegal := by
  unfold switchBanks
  split
  · exact h
  · rename_i b hb
    have ho := h.other (armedBank_some hb)
    have e1 : ∀ u : State, u.banksLegal → (u.offerBank .switch b s.iq.next).banksLegal := fun u hu =>
      State.banksLegal_congr hu (by simp [State.offerBank]) (by simp [State.offerBank]) (by simp [State.offerBank])
    refine e1 _ (State.banksLegal_of_active (b := b) ?_ ?_ ?_ ?_)
    · simp [Bank.activate]
    all_goals
      simp only [State.modBank_bank, (otherBank_ne b).symm, if_false, if_true, Bank.displace]
      split <;> simp_all

theorem Bank.release_count_ne (k : Bank) : k.release.state = .draining → k.release.count ≠ 0 := by
  unfold Bank.release
  dsimp only
  split
  · intro h; cases h
  · rename_i h
    intro hd hc
    exact h (by simp [hd, hc])

theorem configured_banksLegal {s v : State} (h : s.banksLegal)
    (e : ∀ b, (v.bank b).count = (s.bank b).count ∧ (v.bank b).state = (configuredBank s.armedBank b (s.bank b)).state ∧
      (v.bank b).activation = (configuredBank s.armedBank b (s.bank b)).activation) : v.banksLegal := by
  cases ha : s.armedBank with
  | none =>
    refine ⟨?_, fun b => ⟨fun hb => ?_, fun hb => ?_⟩⟩
    · simp only [(e 0).2.1, (e 1).2.1, ha, configuredBank]; exact h.1
    · rw [(e b).2.1, ha] at hb; exact absurd hb (armedBank_none ha b)
    · rw [(e b).1]; rw [(e b).2.1, ha] at hb; exact (h.2 b).2 hb
  | some a =>
    refine State.banksLegal_of_active (b := a) ?_ ?_ ?_ ?_
    · rw [(e a).2.1, ha]; simp [configuredBank, Bank.activate]
    all_goals
      rw [(e (otherBank a)).2.1, ha]
      simp [configuredBank, otherBank_ne]

theorem cancelled_banksLegal {s v : State} (h : s.banksLegal)
    (e : ∀ b, (v.bank b).count = (s.bank b).count ∧ (v.bank b).state = (cancelledBank s.armedBank b (s.bank b)).state) :
    v.banksLegal := by
  cases ha : s.armedBank with
  | none =>
    refine ⟨?_, fun b => ⟨fun hb => ?_, fun hb => ?_⟩⟩
    · simp only [(e 0).2, (e 1).2, ha, cancelledBank]; exact h.1
    · rw [(e b).2, ha] at hb; exact absurd hb (armedBank_none ha b)
    · rw [(e b).1]; rw [(e b).2, ha] at hb; exact (h.2 b).2 hb
  | some a =>
    have ho := h.other (armedBank_some ha)
    have eo : (v.bank (otherBank a)).state = .active := by
      rw [(e _).2, ha]; simp [cancelledBank, otherBank_ne, ho]
    have ea : (v.bank a).state = .idle := by rw [(e a).2, ha]; simp [cancelledBank]
    have hoo : otherBank (otherBank a) = a := by fin_cases a <;> rfl
    refine State.banksLegal_of_active (b := otherBank a) eo ?_ ?_ ?_ <;> rw [hoo, ea] <;> simp

theorem offer_banksLegal {s : State} (h : s.banksLegal) (body : NoticeBody) : (s.offer body).banksLegal :=
  State.banksLegal_congr h (by simp) (by simp) (by simp)

theorem enterConfigure_banksLegal {s : State} (h : s.banksLegal) (reason : ModeReason) (gone : Removed) :
    (enterConfigure reason gone s).banksLegal := by
  obtain ⟨v, hv, -, -, -, -, -, -, -, -, hb⟩ := enterConfigure_eq reason gone s
  rw [hv]; exact offer_banksLegal (configured_banksLegal h hb) _

theorem enterFault_banksLegal {s : State} (h : s.banksLegal) (cause : Cause) : (enterFault cause s).banksLegal := by
  obtain ⟨v, hv, -, -, -, -, -, -, -, -, hb⟩ := enterFault_eq cause s
  rw [hv]; exact offer_banksLegal (cancelled_banksLegal h fun b => ⟨(hb b).1, (hb b).2.1⟩) _

theorem Acts.banksLegal {s t : State} (h : Acts p s t) (l : s.banksLegal) : t.banksLegal := by
  induction h with
  | refl s => exact l
  | trans _ _ h1 h2 => exact h2 (h1 l)
  | offer s body => exact offer_banksLegal l body
  | detector s m allowed cfg idle => exact l
  | item s no f bank num => exact l
  | join s i creating room mode num =>
    refine ⟨?_, fun b => ⟨fun h => ?_, fun h => ?_⟩⟩
    · have h0 : ∀ b, ((joinQueue i s).bank b).state = (s.bank b).state := fun b => by
        simp only [joinQueue, bankJoined, State.modBank_bank]
        split
        · rename_i e; subst e; rfl
        · rfl
      rw [h0, h0]; exact l.1
    · simp only [joinQueue, bankJoined, State.modBank_bank] at h
      simp [State.running, joinQueue, bankJoined, State.modBank, mode, Mode.running]
    · simp only [joinQueue, bankJoined, State.modBank_bank] at h ⊢
      split
      · exact Nat.succ_ne_zero _
      · rename_i e
        rw [if_neg e] at h
        exact (l.2 b).2 h
  | retire s i rest body head =>
    have hs : ∀ b, ((bankRetired i.bank ((s.withIq { s.iq with items := rest }).offer body)).bank b) =
        if i.bank = b then (s.bank i.bank).release else s.bank b := fun b => by
      simp [bankRetired]
    refine ⟨?_, fun b => ⟨fun h => ?_, fun h => ?_⟩⟩
    · have key : ∀ b, ((if i.bank = b then (s.bank i.bank).release else s.bank b).state = .active ↔
          (s.bank b).state = .active) := fun b => by
        split
        · rename_i e; subst e
          unfold Bank.release
          dsimp only
          split
          · rename_i h; simp only [Bool.and_eq_true, beq_iff_eq] at h; rw [h.1]; simp
          · exact Iff.rfl
        · exact Iff.rfl
      rw [hs, hs, key, Ne, key]; exact l.1
    · rw [hs] at h
      have : (s.bank b).state = .armed := by
        split at h
        · rename_i e; subst e
          unfold Bank.release at h
          dsimp only at h
          split at h
          · cases h
          · exact h
        · exact h
      simpa [bankRetired, State.modBank] using (l.2 b).1 this
    · rw [hs] at h ⊢
      split at h
      · rename_i e; rw [if_pos e]; exact Bank.release_count_ne _ h
      · rename_i e; rw [if_neg e]; exact (l.2 b).2 h
  | station s b n f on =>
    exact State.banksLegal_congr l (fun h => h) (fun c => (modStationRun_bank_entries s b c n f).1)
      (fun c => (modStationRun_bank_entries s b c n f).2.1)
  | window s b w f =>
    exact State.banksLegal_congr l (fun h => h) (fun c => (modWindowRun_bank_entries s b c w f).1)
      (fun c => (modWindowRun_bank_entries s b c w f).2.1)
  | latch s l' v mode => exact l
  | switch s creating mode => exact switchBanks_banksLegal l
  | drained s mode empty => exact enterConfigure_banksLegal l _ _
  | fault s c allowed mode => exact enterFault_banksLegal l c
  | cause s c allowed mode =>
    exact State.banksLegal_congr l (by simp [State.running, addCause, State.offerFault]) (by simp [addCause, State.offerFault])
      (by simp [addCause, State.offerFault])

/-! ### Run control -/

theorem FaultSet.has_add_self (f : FaultSet) (c : Cause) : (f.add c).has c = true := by cases c <;> rfl

theorem FaultSet.has_add (f : FaultSet) (c d : Cause) (h : f.has d = true) : (f.add c).has d = true := by
  cases c <;> cases d <;> simp_all [FaultSet.add, FaultSet.has]

theorem State.runLegal_congr {s t : State} (h : s.runLegal) (e : t.run = s.run) : t.runLegal := by
  unfold State.runLegal at *
  rw [e]; exact h

theorem enterConfigure_runLegal {s : State} (h : s.run.faults = .empty ∧ s.run.first = none) (reason : ModeReason)
    (gone : Removed) : (enterConfigure reason gone s).runLegal := by
  obtain ⟨v, hv, hr, -⟩ := enterConfigure_eq reason gone s
  unfold State.runLegal
  rw [hv, State.offer_run, hr]
  exact ⟨fun _ => h, fun e => (by cases e), fun e => absurd rfl e⟩

theorem enterFault_runLegal (s : State) (cause : Cause) : (enterFault cause s).runLegal := by
  obtain ⟨v, hv, hr, -⟩ := enterFault_eq cause s
  unfold State.runLegal
  rw [hv, State.offer_run, hr]
  exact ⟨fun e => absurd rfl e, fun _ => ⟨cause, rfl, FaultSet.has_add_self _ _⟩, fun e => absurd rfl e⟩

theorem Acts.runLegal {s t : State} (h : Acts p s t) (l : s.runLegal) : t.runLegal := by
  induction h with
  | refl s => exact l
  | trans _ _ h1 h2 => exact h2 (h1 l)
  | offer s body => exact State.runLegal_congr l (by simp)
  | detector s m allowed cfg idle => exact l
  | item s no f bank num => exact l
  | join s i creating room mode num => exact l
  | retire s i rest body head => exact State.runLegal_congr l (by simp [bankRetired, State.modBank])
  | station s b n f on => exact l
  | window s b w f => exact l
  | latch s l' v mode => exact l
  | switch s creating mode => exact State.runLegal_congr l (switchBanks_run s)
  | drained s mode empty => exact enterConfigure_runLegal (l.1 (by rw [mode]; decide)) _ _
  | fault s c allowed mode => exact enterFault_runLegal s c
  | cause s c allowed mode =>
    have hr : (addCause c s).run = { s.run with faults := s.run.faults.add c } := by simp [addCause, State.offerFault]
    obtain ⟨d, hd, hh⟩ := l.2.1 mode
    unfold State.runLegal
    rw [hr]
    refine ⟨fun e => absurd mode e, fun _ => ⟨d, hd, FaultSet.has_add _ _ _ hh⟩, fun e => ?_⟩
    have := l.2.2 e
    exact this

/-! ### The queue in CONFIGURE, and the reference counts -/

theorem Acts.configureEmpty {s t : State} (h : Acts p s t) (l : s.run.mode = .configure → s.iq.items = []) :
    t.run.mode = .configure → t.iq.items = [] := by
  induction h with
  | refl s => exact l
  | trans _ _ h1 h2 => exact h2 (h1 l)
  | offer s body => simpa using l
  | detector s m allowed cfg idle => exact l
  | item s no f bank num => intro e; simp [State.modItem, l e]
  | join s i creating room mode num => intro e; rw [show (joinQueue i s).run = s.run from rfl, mode] at e; cases e
  | retire s i rest body head =>
    intro e
    have : s.run.mode = .configure := by simpa [bankRetired, State.modBank] using e
    rw [l this] at head; cases head
  | station s b n f on => exact l
  | window s b w f => exact l
  | latch s l' v mode => exact l
  | switch s creating mode => intro e; rw [switchBanks_run, mode] at e; cases e
  | drained s mode empty =>
    intro _
    obtain ⟨v, hv, -, hi, -⟩ := enterConfigure_eq .drained .nothing s
    rw [hv, State.offer_iq, hi, empty]
  | fault s c allowed mode =>
    intro e
    obtain ⟨v, hv, hr, -⟩ := enterFault_eq c s
    rw [hv, State.offer_run, hr] at e; cases e
  | cause s c allowed mode =>
    intro e
    simp [addCause, State.offerFault, mode] at e

theorem State.countsExact_congr {s t : State} (h : s.countsExact) (items : t.iq.items = s.iq.items)
    (count : ∀ b, (t.bank b).count = (s.bank b).count) : t.countsExact := fun b => by
  rw [count, items]; exact h b

theorem Acts.countsExact {s t : State} (h : Acts p s t) (l : s.countsExact) : t.countsExact := by
  induction h with
  | refl s => exact l
  | trans _ _ h1 h2 => exact h2 (h1 l)
  | offer s body => exact State.countsExact_congr l (by simp) (by simp)
  | detector s m allowed cfg idle => exact l
  | item s no f bank num =>
    intro b
    have : (s.modItem no f).iq.items = s.iq.items.map fun i => if i.no == no then f i else i := rfl
    rw [this, List.countP_map]
    refine (l b).trans (List.countP_congr fun i _ => ?_)
    simp only [Function.comp]
    split
    · rw [bank]
    · rfl
  | join s i creating room mode num =>
    intro b
    have hi : (joinQueue i s).iq.items = s.iq.items ++ [i] := rfl
    rw [hi, List.countP_append, ← l b]
    simp only [joinQueue, bankJoined, State.modBank_bank]
    by_cases e : i.bank = b
    · subst e; simp
    · simp [e]
  | retire s i rest body head =>
    intro b
    have hi : (bankRetired i.bank ((s.withIq { s.iq with items := rest }).offer body)).iq.items = rest := by
      simp [bankRetired, State.modBank]
    have hl := l b
    rw [head] at hl
    rw [hi]
    simp only [bankRetired, State.modBank_bank, State.offer_bank, State.withIq_bank]
    by_cases e : i.bank = b
    · subst e
      simp only [if_true, Bank.release]
      rw [hl]; simp
    · simp only [e, if_false]
      rw [hl]; simp [e]
  | station s b n f on =>
    exact State.countsExact_congr l rfl (fun c => (modStationRun_bank_entries s b c n f).2.1)
  | window s b w f =>
    exact State.countsExact_congr l rfl (fun c => (modWindowRun_bank_entries s b c w f).2.1)
  | latch s l' v mode => exact l
  | switch s creating mode =>
    refine State.countsExact_congr l (by rw [switchBanks_iq]) fun b => ?_
    unfold switchBanks
    split
    · rfl
    · simp only [State.offerBank, State.offer_bank, State.modBank_bank]
      split
      · rename_i e; subst e; simp [Bank.activate, otherBank_ne]
      · split
        · rename_i e; subst e; rfl
        · rfl
  | drained s mode empty =>
    obtain ⟨v, hv, -, hi, -, -, -, -, -, -, hb⟩ := enterConfigure_eq .drained .nothing s
    rw [hv]
    exact State.countsExact_congr l (by simp [hi]) fun b => by rw [State.offer_bank, (hb b).1]
  | fault s c allowed mode =>
    obtain ⟨v, hv, -, hi, -, -, -, -, -, -, hb⟩ := enterFault_eq c s
    rw [hv]
    exact State.countsExact_congr l (by simp [hi]) fun b => by rw [State.offer_bank, (hb b).1]
  | cause s c allowed mode =>
    exact State.countsExact_congr l (by simp [addCause, State.offerFault]) (by simp [addCause, State.offerFault])

/-! ### The numbers of the items -/

theorem State.numbersFollow_congr {s t : State} (h : s.numbersFollow) (nos : t.iq.items.map (·.no) = s.iq.items.map (·.no))
    (next : t.iq.next = s.iq.next) : t.numbersFollow := by
  unfold State.numbersFollow at *
  rw [nos, next]; exact h

/-- An empty queue with a next number other than 0. -/
theorem State.numbersFollow_empty {t : State} (items : t.iq.items = []) (next : t.iq.next ≠ 0#16) : t.numbersFollow := by
  unfold State.numbersFollow
  rw [items]
  exact ⟨fun n h => by rw [List.mem_singleton.mp h]; exact next, .singleton _⟩

theorem nextItemNo_ne (n : ItemNo) : nextItemNo n ≠ 0#16 := by
  unfold nextItemNo
  split
  · decide
  · rename_i h
    intro e
    have := congrArg BitVec.toNat e
    rw [BitVec.toNat_add] at this
    exact h (BitVec.eq_of_toNat_eq (by simp at this ⊢; omega))

theorem Acts.numbersFollow {s t : State} (h : Acts p s t) (l : s.numbersFollow) : t.numbersFollow := by
  induction h with
  | refl s => exact l
  | trans _ _ h1 h2 => exact h2 (h1 l)
  | offer s body => exact State.numbersFollow_congr l (by simp) (by simp)
  | detector s m allowed cfg idle => exact l
  | item s no f bank num =>
    refine State.numbersFollow_congr l ?_ rfl
    simp only [State.modItem, State.withIq_iq, List.map_map]
    refine List.map_congr_left fun i _ => ?_
    simp only [Function.comp]
    split
    · exact num i
    · rfl
  | join s i creating room mode num =>
    obtain ⟨l1, l2⟩ := l
    have e : (joinQueue i s).iq.items.map (·.no) ++ [(joinQueue i s).iq.next] =
        (s.iq.items.map (·.no) ++ [s.iq.next]) ++ [nextItemNo s.iq.next] := by
      rw [← num]; simp [joinQueue, bankJoined, State.modBank, num]
    unfold State.numbersFollow
    rw [e]
    refine ⟨fun n hn => ?_, List.isChain_append.mpr ⟨l2, .singleton _, fun a ha b hb => ?_⟩⟩
    · rcases List.mem_append.mp hn with h | h
      · exact l1 n h
      · rw [List.mem_singleton.mp h]; exact nextItemNo_ne _
    · simp at ha hb
      subst ha hb; rfl
  | retire s i rest body head =>
    obtain ⟨l1, l2⟩ := l
    have e : (bankRetired i.bank ((s.withIq { s.iq with items := rest }).offer body)).iq = { s.iq with items := rest } := by
      simp [bankRetired, State.modBank]
    unfold State.numbersFollow
    rw [head] at l1 l2
    rw [e]
    exact ⟨fun n hn => l1 n (List.mem_cons_of_mem _ hn), l2.tail⟩
  | station s b n f on => exact l
  | window s b w f => exact l
  | latch s l' v mode => exact l
  | switch s creating mode => exact State.numbersFollow_congr l (by rw [switchBanks_iq]) (by rw [switchBanks_iq])
  | drained s mode empty =>
    obtain ⟨v, hv, -, hi, -⟩ := enterConfigure_eq .drained .nothing s
    exact State.numbersFollow_congr l (by rw [hv, State.offer_iq, hi]) (by rw [hv, State.offer_iq, hi])
  | fault s c allowed mode =>
    obtain ⟨v, hv, -, hi, -⟩ := enterFault_eq c s
    exact State.numbersFollow_congr l (by rw [hv, State.offer_iq, hi]) (by rw [hv, State.offer_iq, hi])
  | cause s c allowed mode =>
    exact State.numbersFollow_congr l (by simp [addCause, State.offerFault]) (by simp [addCause, State.offerFault])

/-- In a chain of successors the entry at place k is k steps of the cycle 1 to 65535 from the first. -/
theorem successors_place : ∀ (nos : List ItemNo) (a : ItemNo), (∀ n ∈ a :: nos, n ≠ 0#16) →
    (a :: nos).IsChain (fun a b => b = if a = 65535#16 then 1#16 else a + 1#16) →
    ∀ (k : Nat) (h : k < (a :: nos).length), ((a :: nos)[k]).toNat = (a.toNat - 1 + k) % 65535 + 1
  | _, a, hz, _, 0, _ => by
    have h0 : a.toNat ≠ 0 := fun e => hz a List.mem_cons_self (BitVec.eq_of_toNat_eq e)
    have := a.isLt
    simp only [List.getElem_cons_zero, Nat.add_zero]
    omega
  | [], _, _, _, k + 1, h => absurd h (by simp)
  | b :: nos, a, hz, hc, k + 1, h => by
    obtain ⟨hb, hc⟩ := List.isChain_cons_cons.mp hc
    have h0 : a.toNat ≠ 0 := fun e => hz a List.mem_cons_self (BitVec.eq_of_toNat_eq e)
    have hl := a.isLt
    rw [List.getElem_cons_succ, successors_place nos b (fun n hn => hz n (List.mem_cons_of_mem _ hn)) hc k
      (by simpa using h)]
    have hbn : b.toNat - 1 = a.toNat % 65535 := by
      rw [hb]
      split
      · rename_i e; rw [e]; rfl
      · rename_i e
        have : a.toNat ≠ 65535 := fun e' => e (BitVec.eq_of_toNat_eq e')
        rw [BitVec.toNat_add]
        simp
        omega
    rw [hbn]
    omega

/-- Within the capacity of the queue the numbers present are distinct (R38, R39). -/
theorem State.numbersFollow.distinct {s : State} (h : s.numbersFollow) (room : s.iq.items.length ≤ Config.itemCapacity) :
    s.iq.items.Pairwise fun i j => i.no ≠ j.no := by
  obtain ⟨hz, hc⟩ := h
  have hcap : s.iq.items.length ≤ 48 := room
  rw [List.pairwise_iff_getElem]
  intro i j hi hj hij e
  generalize hn : s.iq.items.map (·.no) ++ [s.iq.next] = nos at hz hc
  have place : ∀ k (hk : k < s.iq.items.length), nos[k]? = some (s.iq.items[k]).no := fun k hk => by
    rw [← hn, List.getElem?_append_left (by simpa using hk), List.getElem?_map, List.getElem?_eq_getElem hk]; rfl
  cases nos with
  | nil => simp at hn
  | cons a nos =>
    have at' : ∀ k (hk : k < s.iq.items.length), ((s.iq.items[k]).no).toNat = (a.toNat - 1 + k) % 65535 + 1 := fun k hk => by
      obtain ⟨hlt, e⟩ := List.getElem?_eq_some_iff.mp (place k hk)
      rw [← e]; exact successors_place nos a hz hc k hlt
    have := (at' i hi).symm.trans ((congrArg BitVec.toNat e).trans (at' j hj))
    omega

/-! ### Pulses and latches -/

theorem State.actuatorsQuiet_congr {s t : State} (h : s.actuatorsQuiet) (mode : t.running = s.running)
    (station : ∀ b n, (t.station b n).run.on = (s.station b n).run.on) (line : ∀ l, (t.line l).latch = (s.line l).latch) :
    t.actuatorsQuiet := fun e => by
  obtain ⟨h1, h2⟩ := h (mode.symm.trans e)
  exact ⟨fun b n => (station b n).trans (h1 b n), fun l => (line l).trans (h2 l)⟩

theorem actuatorsQuiet_of_running {t : State} (h : t.running = true) : t.actuatorsQuiet := fun e => by
  rw [h] at e; cases e

theorem enterConfigure_actuatorsQuiet (s : State) (reason : ModeReason) (gone : Removed) :
    (enterConfigure reason gone s).actuatorsQuiet := by
  obtain ⟨v, hv, -, -, -, -, hs, -, hl, -⟩ := enterConfigure_eq reason gone s
  intro _
  rw [hv]
  refine ⟨fun b n => ?_, fun l => ?_⟩
  · rw [State.offer_station, hs]; exact endPulse_on _ _
  · rw [State.offer_line, hl]

theorem enterFault_actuatorsQuiet (s : State) (cause : Cause) : (enterFault cause s).actuatorsQuiet := by
  obtain ⟨v, hv, -, -, -, -, hs, -, hl, -⟩ := enterFault_eq cause s
  intro _
  rw [hv]
  refine ⟨fun b n => ?_, fun l => ?_⟩
  · rw [State.offer_station, hs]; exact endPulse_on _ _
  · rw [State.offer_line, hl]

theorem Acts.actuatorsQuiet {s t : State} (h : Acts p s t) (l : s.actuatorsQuiet) : t.actuatorsQuiet := by
  induction h with
  | refl s => exact l
  | trans _ _ h1 h2 => exact h2 (h1 l)
  | offer s body => exact State.actuatorsQuiet_congr l (by simp) (by simp) (by simp)
  | detector s m allowed cfg idle => exact l
  | item s no f bank num => exact l
  | join s i creating room mode num =>
    exact actuatorsQuiet_of_running (by simp [State.running, joinQueue, bankJoined, State.modBank, mode, Mode.running])
  | retire s i rest body head =>
    refine State.actuatorsQuiet_congr l (by simp [bankRetired, State.modBank]) (fun b n => ?_)
      (by simp [bankRetired, State.modBank])
    unfold bankRetired
    rw [modBank_station _ _ _ _ Bank.release fun k => rfl]
    simp
  | station s b n f on =>
    intro e
    have e' : s.running = false := e
    obtain ⟨h1, h2⟩ := l e'
    refine ⟨fun c m => ?_, h2⟩
    rw [State.modStationRun_station]
    split
    · rename_i hc
      obtain ⟨rfl, rfl⟩ := hc
      by_contra hf
      rcases on (by simpa using hf) with h | h
      · rw [h1] at h; cases h
      · rw [e'] at h; cases h
    · exact h1 c m
  | window s b w f =>
    exact State.actuatorsQuiet_congr l rfl (by simp) (fun _ => rfl)
  | latch s l' v mode => exact actuatorsQuiet_of_running mode
  | switch s creating mode =>
    exact actuatorsQuiet_of_running (by rw [State.running, switchBanks_run, mode]; rfl)
  | drained s mode empty => exact enterConfigure_actuatorsQuiet s _ _
  | fault s c allowed mode => exact enterFault_actuatorsQuiet s c
  | cause s c allowed mode =>
    exact State.actuatorsQuiet_congr l (by simp [addCause, State.offerFault, State.running]) (by simp [addCause, State.offerFault])
      (by simp [addCause, State.offerFault])

/-! ### The reach and the line -/

/-- Outside RUN and STOPPING acts leave the mode and LEI. -/
theorem Acts.stopped {s t : State} (h : Acts p s t) (r : s.running = false) :
    t.run.mode = s.run.mode ∧ t.lei = s.lei := by
  have hr : ∀ u : State, u.run.mode = .run → u.running = true := fun u e => by simp [State.running, e, Mode.running]
  induction h with
  | refl s => exact ⟨rfl, rfl⟩
  | @trans s t u _ _ h1 h2 =>
    obtain ⟨a1, a2⟩ := h1 r
    obtain ⟨b1, b2⟩ := h2 (by rw [State.running, a1]; exact r)
    exact ⟨b1.trans a1, b2.trans a2⟩
  | offer s body => simp
  | detector s m allowed cfg idle => exact ⟨rfl, rfl⟩
  | item s no f bank num => exact ⟨rfl, rfl⟩
  | join s i creating room mode num => rw [hr s mode] at r; cases r
  | retire s i rest body head => simp [bankRetired, State.modBank]
  | station s b n f on => exact ⟨rfl, rfl⟩
  | window s b w f => exact ⟨rfl, rfl⟩
  | latch s l' v mode => exact ⟨rfl, rfl⟩
  | switch s creating mode => rw [hr s mode] at r; cases r
  | drained s mode empty => rw [State.running, mode] at r; cases r
  | fault s c allowed mode => rw [mode] at r; cases r
  | cause s c allowed mode => simp [addCause, State.offerFault]

/-- Acts leave LEI as it is but for its reach at an entry to CONFIGURE and its sub-step timer at an entry to FAULT. -/
theorem Acts.lei {s t : State} (h : Acts p s t) :
    t.lei = { s.lei with reach := t.lei.reach, subTimer := t.lei.subTimer } ∧
      (t.lei.reach = s.lei.reach ∨ t.run.mode = .configure) ∧
      (t.lei.subTimer = s.lei.subTimer ∨ p = .faults ∧ t.run.mode = .fault) ∧
      (s.running = true → t.run.mode = .configure → t.lei.reach = t.lei.position) := by
  have hn : ∀ u : State, u.run.mode = .configure → u.running = false := fun u e => by simp [State.running, e, Mode.running]
  induction h with
  | refl s => exact ⟨rfl, .inl rfl, .inl rfl, fun h e => by rw [hn s e] at h; cases h⟩
  | @trans s t u _ h2' h1 h2 =>
    obtain ⟨a1, a2, a3, a4⟩ := h1
    by_cases r : t.running = true
    · obtain ⟨b1, b2, b3, b4⟩ := h2
      have hc : t.run.mode ≠ .configure := fun e => by rw [hn t e] at r; cases r
      have hf : t.run.mode ≠ .fault := fun e => by simp [State.running, e, Mode.running] at r
      refine ⟨by rw [b1, a1], ?_, ?_, fun _ => b4 r⟩
      · exact b2.imp (fun b => b.trans (a2.resolve_right hc)) id
      · exact b3.imp (fun b => b.trans (a3.resolve_right fun e => hf e.2)) id
    · obtain ⟨b1, b2⟩ := h2'.stopped (by simpa using r)
      rw [b1, b2]
      exact ⟨a1, a2, a3, a4⟩
  | offer s body => rw [State.offer_lei, State.offer_run]; exact ⟨rfl, .inl rfl, .inl rfl, fun h e => by rw [hn s e] at h; cases h⟩
  | detector s m allowed cfg idle => exact ⟨rfl, .inl rfl, .inl rfl, fun h e => by rw [hn s e] at h; cases h⟩
  | item s no f bank num => exact ⟨rfl, .inl rfl, .inl rfl, fun h e => by rw [hn s e] at h; cases h⟩
  | join s i creating room mode num => exact ⟨rfl, .inl rfl, .inl rfl, fun h e => by rw [hn s e] at h; cases h⟩
  | retire s i rest body head =>
    have h1 : (bankRetired i.bank ((s.withIq { s.iq with items := rest }).offer body)).lei = s.lei := by
      simp [bankRetired, State.modBank]
    have h2 : (bankRetired i.bank ((s.withIq { s.iq with items := rest }).offer body)).run = s.run := by
      simp [bankRetired, State.modBank]
    rw [h1, h2]
    exact ⟨rfl, .inl rfl, .inl rfl, fun h e => by rw [hn s e] at h; cases h⟩
  | station s b n f on => exact ⟨rfl, .inl rfl, .inl rfl, fun h e => by rw [hn s e] at h; cases h⟩
  | window s b w f => exact ⟨rfl, .inl rfl, .inl rfl, fun h e => by rw [hn s e] at h; cases h⟩
  | latch s l' v mode => exact ⟨rfl, .inl rfl, .inl rfl, fun h e => by rw [hn s e] at h; cases h⟩
  | switch s creating mode =>
    have h1 : (switchBanks s).lei = s.lei := by
      unfold switchBanks
      split
      · rfl
      · simp [State.offerBank, State.modBank]
    rw [h1, switchBanks_run]
    exact ⟨rfl, .inl rfl, .inl rfl, fun h e => by rw [hn s e] at h; cases h⟩
  | drained s mode empty =>
    obtain ⟨v, hv, hr, -, -, hl, -⟩ := enterConfigure_eq .drained .nothing s
    rw [hv, State.offer_lei, State.offer_run, hl, hr]
    exact ⟨rfl, .inr rfl, .inl rfl, fun _ _ => rfl⟩
  | fault s c allowed mode =>
    obtain ⟨v, hv, hr, -, -, hl, -⟩ := enterFault_eq c s
    rw [hv, State.offer_lei, State.offer_run, hl, hr]
    exact ⟨rfl, .inl rfl, .inr ⟨allowed, rfl⟩, fun _ e => by cases e⟩
  | cause s c allowed mode =>
    have h1 : (addCause c s).lei = s.lei ∧ (addCause c s).run.mode = s.run.mode := by simp [addCause, State.offerFault]
    rw [h1.1, h1.2]
    exact ⟨rfl, .inl rfl, .inl rfl, fun h e => by rw [hn s e] at h; cases h⟩

/-- Acts that enter FAULT stop the sub-step timer (R7, R130). -/
theorem Acts.timer_stopped {s t : State} (h : Acts p s t) (r : s.running = true) (m : t.run.mode = .fault) :
    t.lei.subTimer = none := by
  have hn : ∀ u v : State, v.run.mode = u.run.mode → u.running = true → v.run.mode = .fault → v.lei.subTimer = none :=
    fun u v e r m => by rw [State.running, ← e, m] at r; cases r
  induction h with
  | refl s => exact hn s s rfl r m
  | @trans s t u _ h2' h1 h2 =>
    by_cases rt : t.running = true
    · exact h2 rt m
    · obtain ⟨e1, e2⟩ := h2'.stopped (by simpa using rt)
      rw [e2]; exact h1 r (e1.symm.trans m)
  | offer s body => exact hn s _ (by simp) r m
  | detector s m' allowed cfg idle => exact hn s _ rfl r m
  | item s no f bank num => exact hn s _ rfl r m
  | join s i creating room mode num => exact hn s _ rfl r m
  | retire s i rest body head => exact hn s _ (by simp [bankRetired, State.modBank]) r m
  | station s b n f on => exact hn s _ rfl r m
  | window s b w f => exact hn s _ rfl r m
  | latch s l' v mode => exact hn s _ rfl r m
  | switch s creating mode => exact hn s _ (by rw [switchBanks_run]) r m
  | drained s mode empty =>
    obtain ⟨v, hv, hr, -⟩ := enterConfigure_eq .drained .nothing s
    rw [hv, State.offer_run, hr] at m; cases m
  | fault s c allowed mode =>
    obtain ⟨v, hv, -, -, -, hl, -⟩ := enterFault_eq c s
    rw [hv, State.offer_lei, hl]
  | cause s c allowed mode => rw [State.running, mode] at r; cases r

/-- Acts of the tracking power leave the detector as it is in RUN. -/
theorem Acts.mkd {s t : State} (h : Acts .tracking s t) (mode : s.run.mode ≠ .stopping) : t.mkd = s.mkd := by
  induction h with
  | refl s => rfl
  | @trans s t u h1' _ h1 h2 => rw [h2 (by rw [h1'.run_eq (by decide) mode]; exact mode), h1 mode]
  | offer s body => simp
  | detector s m allowed cfg idle => exact allowed.elim nofun nofun
  | item s no f bank num => rfl
  | join s i creating room mode num => rfl
  | retire s i rest body head => simp [bankRetired, State.modBank]
  | station s b n f on => rfl
  | window s b w f => rfl
  | latch s l' v mode => rfl
  | switch s creating mode =>
    unfold switchBanks
    split
    · rfl
    · simp [State.offerBank, State.modBank]
  | drained s hm empty => exact absurd hm mode
  | fault s c allowed mode => cases allowed
  | cause s c allowed mode => cases allowed

/-- Acts that create nothing, outside STOPPING, leave the next item number, what made each bank ACTIVE, and which is. -/
theorem Acts.settling {s t : State} (h : Acts .settling s t) (mode : s.run.mode ≠ .stopping) :
    t.iq.next = s.iq.next ∧ ∀ b, (t.bank b).activation = (s.bank b).activation ∧
      ((t.bank b).state = .active ↔ (s.bank b).state = .active) := by
  induction h with
  | refl s => exact ⟨rfl, fun b => ⟨rfl, .rfl⟩⟩
  | @trans s t u a _ h1 h2 =>
    obtain ⟨a1, a2⟩ := h1 mode
    obtain ⟨b1, b2⟩ := h2 (by rw [a.run_eq (by decide) mode]; exact mode)
    exact ⟨b1.trans a1, fun b => ⟨(b2 b).1.trans (a2 b).1, (b2 b).2.trans (a2 b).2⟩⟩
  | offer s body => simp
  | detector s m allowed cfg idle => exact allowed.elim nofun nofun
  | item s no f bank num => exact ⟨rfl, fun b => ⟨rfl, .rfl⟩⟩
  | join s i creating room mode' num => exact absurd rfl creating
  | retire s i rest body head =>
    refine ⟨by simp [bankRetired, State.modBank], fun b => ?_⟩
    have hb : (bankRetired i.bank ((s.withIq { s.iq with items := rest }).offer body)).bank b =
        if i.bank = b then (s.bank i.bank).release else s.bank b := by
      unfold bankRetired
      rw [State.modBank_bank, State.offer_bank, State.offer_bank]
      rfl
    rw [hb]
    split
    · rename_i e
      subst e
      refine ⟨rfl, ?_⟩
      simp only [Bank.release]
      split
      · rename_i e
        simp only [Bool.and_eq_true, beq_iff_eq] at e
        simp [e.1]
      · rfl
    · exact ⟨rfl, .rfl⟩
  | station s b n f on =>
    refine ⟨rfl, fun c => ?_⟩
    obtain ⟨h1, -, h3⟩ := modStationRun_bank_entries s b c n f
    rw [h1, h3]; exact ⟨rfl, .rfl⟩
  | window s b w f =>
    refine ⟨rfl, fun c => ?_⟩
    obtain ⟨h1, -, h3⟩ := modWindowRun_bank_entries s b c w f
    rw [h1, h3]; exact ⟨rfl, .rfl⟩
  | latch s l v mode' => exact ⟨rfl, fun b => ⟨rfl, .rfl⟩⟩
  | switch s creating mode' => exact absurd rfl creating
  | drained s hm empty => exact absurd hm mode
  | fault s c allowed hm => cases allowed
  | cause s c allowed hm => cases allowed

end Sys2Proof.Machine
end

