-- ==== Sys2Proof/Laws/Link.lean ====
section
/-! SUPPORT. A command at a link that is ready is executed whole within its step: one lemma for all twenty-eight commands. -/

namespace Sys2Proof.Machine

/-- With nothing to take, the transmitter's choice changes nothing. -/
theorem serve_ready (s : State) (h : s.slk.tx = .idle → s.slk.responses = [] ∧ s.ntq.queue = []) : serve s = s := by
  unfold serve
  split
  · rfl
  · rename_i ht
    obtain ⟨hr, hq⟩ := h ht
    rw [hr]
    dsimp only
    have : takeNotice s.ntq.queue = none := by rw [hq]; rfl
    rw [this]
    split <;> simp_all

theorem fresh_not_repeated (s : State) (r : Request) (h : s.fresh r.seq r.kind) : r.repeated s.slk.cache = none := by
  unfold Request.repeated
  split
  · rfl
  · rename_i c hc
    rcases h with h | h
    · simp [h]
    · have := h c hc
      split
      · rename_i h'; exact absurd h'.2.2 (this h'.2.1)
      · rfl

/-- A transmitter that sends takes nothing. -/
theorem serve_busy (s : State) (h : s.slk.tx ≠ .idle) : serve s = s := by
  unfold serve
  split
  · rfl
  · rename_i h'; exact absurd h' h

/-- A command at a ready link is performed within its step (R157). -/
theorem submit_performed (r : Request) (s : State) (ready : s.linkReady) : submit r s = serve (perform r s) := by
  obtain ⟨-, hreq, hp, hl, ht⟩ := ready
  have hd : dispatch r s = s.withSlk { s.slk with requests := [r] } := by
    unfold dispatch; rw [hreq]; rfl
  have hs : serve (dispatch r s) = s.withSlk { s.slk with requests := [r] } := by
    rw [hd]; exact serve_ready _ ht
  have back : (s.withSlk { s.slk with requests := [r] }).withSlk { s.slk with requests := [] } = s := by
    rw [State.withSlk_withSlk]
    conv_rhs => rw [← State.withSlk_self s]
    congr 1
    rw [← hreq]
  have hh : executeHead (s.withSlk { s.slk with requests := [r] }) = perform r s := by
    unfold executeHead
    simp only [State.withSlk_slk]
    exact congrArg (perform r) back
  unfold submit executeWaiting
  rw [hs]
  simp only [State.withSlk_slk, List.length_singleton]
  unfold executeLoop
  have hc : (s.withSlk { s.slk with requests := [r] }).canExecute = true := by
    simp [State.canExecute, hp, hl]
  rw [hc, hh]
  simp only [if_true]
  unfold executeLoop
  rfl

/-- A command at a ready link, not a repeat, is executed and answered in one step (R157, R158). -/
theorem submit_ready (r : Request) (s : State) (ready : s.linkReady) (fresh : s.fresh r.seq r.kind) :
    submit r s = respond r (execute r s).2 (execute r s).1 := by
  rw [submit_performed r s ready]
  unfold perform respond
  rw [fresh_not_repeated s r fresh]

/-- A refusal at steps 1 to 4 changes nothing but the link (R158). -/
theorem execute_refused (r : Request) (s : State) (status : Status) (detail : Nat)
    (h : refusal r s.run.mode = some (status, detail)) : execute r s = (s, .plain status detail []) := by
  unfold execute; rw [h]

/-- A command that passes steps 1 to 4 acts (R158). -/
theorem execute_taken (r : Request) (s : State) (c : Cmd) (hk : Cmd.ofKind r.kind = some c)
    (hl : r.payload.length = c.length) (hm : c.takenIn s.run.mode = true) (hr : firstBad (c.ranges r.payload) = none) :
    execute r s = c.run r.payload s := by
  have : refusal r s.run.mode = none := by
    unfold refusal
    rw [hk]
    simp [hl, hm, hr]
  unfold execute; rw [this, hk]

/-- Every code names its command. -/
theorem ofKind_code (c : Cmd) : Cmd.ofKind c.code = some c := by cases c <;> rfl

/-- A command that passes steps 1 to 4 at a ready link. -/
theorem submit_taken (c : Cmd) (seq : Byte) (p : List Byte) (s : State) (ready : s.linkReady) (fresh : s.fresh seq c.code)
    (hl : p.length = c.length) (hm : c.takenIn s.run.mode = true) (hr : firstBad (c.ranges p) = none) :
    submit ⟨seq, c.code, p⟩ s = respond ⟨seq, c.code, p⟩ (c.run p s).2 (c.run p s).1 := by
  rw [submit_ready _ _ ready fresh, execute_taken ⟨seq, c.code, p⟩ s c (ofKind_code c) hl hm hr]

/-! ### RESETN (R135) -/

theorem State.held_of_high {s : State} (h : s.pins.resetn = true) : s.held = false := by simp [State.held, h]

theorem State.held_of_low {s : State} (h : s.pins.resetn = false) : s.held = true := by simp [State.held, h]

theorem linkReady_held {s : State} (ready : s.linkReady) : s.held = false := State.held_of_high ready.1

/-- With RESETN high a command has its effect. -/
theorem unlessHeld_high (f : State → State) {s : State} (h : s.held = false) : unlessHeld f s = .next (f s) := by
  simp [unlessHeld, h]

/-- With RESETN low a command has none. -/
theorem unlessHeld_low (f : State → State) {s : State} (h : s.held = true) : unlessHeld f s = .next s := by
  simp [unlessHeld, h]

/-! ### What a response leaves as it was -/

theorem answer_besides (r : Request) (a : Answer) (s : State) : ∃ l, answer r a s = s.withSlk l := ⟨_, rfl⟩

theorem respond_cases (r : Request) (a : Answer) (s : State) : ∃ n l, respond r a s = (s.withNtq n).withSlk l := by
  obtain ⟨n, l, h, -⟩ := serve_cases (answer r a s)
  exact ⟨n, l, by unfold respond; rw [h]; rfl⟩

end Sys2Proof.Machine
end

