-- ==== Sys2Proof/Laws/Core.lean ====
section
/-! SUPPORT. A condition on the tracking core, run control and the line is kept by every step when it is kept by the events and by
the action of each command: the link's own work leaves them alone. -/

namespace Sys2Proof.Machine

/-- The two states agree but for the link, the notices, the clock, the pins, the inputs and the queue of commands. -/
structure SameCore (s t : State) : Prop where
  lei : t.lei = s.lei
  mkd : t.mkd = s.mkd
  iq : t.iq = s.iq
  banks : t.banks = s.banks
  act : t.act = s.act
  run : t.run = s.run

theorem SameCore.refl (s : State) : SameCore s s := ⟨rfl, rfl, rfl, rfl, rfl, rfl⟩

theorem SameCore.trans {s t u : State} (h : SameCore s t) (k : SameCore t u) : SameCore s u :=
  ⟨k.lei.trans h.lei, k.mkd.trans h.mkd, k.iq.trans h.iq, k.banks.trans h.banks, k.act.trans h.act, k.run.trans h.run⟩

theorem SameCore.symm {s t : State} (h : SameCore s t) : SameCore t s :=
  ⟨h.lei.symm, h.mkd.symm, h.iq.symm, h.banks.symm, h.act.symm, h.run.symm⟩

theorem SameCore.bank {s t : State} (h : SameCore s t) (b : Fin 2) : t.bank b = s.bank b := by
  unfold State.bank; rw [h.banks]

theorem SameCore.station {s t : State} (h : SameCore s t) (b : Fin 2) (n : Fin 16) : t.station b n = s.station b n := by
  unfold State.station; simp only [h.bank b]

theorem SameCore.window {s t : State} (h : SameCore s t) (b : Fin 2) (w : Fin 4) : t.window b w = s.window b w := by
  unfold State.window; simp only [h.bank b]

theorem SameCore.line {s t : State} (h : SameCore s t) (l : Fin 16) : t.line l = s.line l := by
  unfold State.line; rw [h.act]

theorem SameCore.running {s t : State} (h : SameCore s t) : t.running = s.running := by
  unfold State.running; rw [h.run]

/-! ### What the link does -/

theorem serve_same (s : State) : SameCore s (serve s) :=
  ⟨serve_lei s, serve_mkd s, serve_iq s, serve_banks s, serve_act s, serve_run s⟩

theorem offer_same (s : State) (body : NoticeBody) : SameCore s (s.offer body) :=
  ⟨State.offer_lei s body, State.offer_mkd s body, State.offer_iq s body, State.offer_banks s body, State.offer_act s body,
    State.offer_run s body⟩

theorem withSlk_same (s : State) (l : Slk) : SameCore s (s.withSlk l) := ⟨rfl, rfl, rfl, rfl, rfl, rfl⟩

theorem withPending_same (s : State) (q : List Instr) : SameCore s (s.withPending q) := ⟨rfl, rfl, rfl, rfl, rfl, rfl⟩

theorem answer_same (r : Request) (a : Answer) (s : State) : SameCore s (answer r a s) := ⟨rfl, rfl, rfl, rfl, rfl, rfl⟩

theorem respond_same (r : Request) (a : Answer) (s : State) : SameCore s (respond r a s) :=
  (answer_same r a s).trans (serve_same _)

theorem dispatch_same (r : Request) (s : State) : SameCore s (dispatch r s) := by
  unfold dispatch
  split
  · exact withSlk_same _ _
  · split
    · exact withSlk_same _ _
    · exact withSlk_same _ _

/-- A condition that reads nothing of the link. -/
def CoreCondition (P : State → Prop) : Prop := ∀ s t, SameCore s t → P s → P t

/-- The action of every command keeps the condition, when the command is taken. -/
def KeptByCommands (P : State → Prop) : Prop :=
  ∀ (c : Cmd) (p : List Byte) (s : State), P s → p.length = c.length → c.takenIn s.run.mode = true →
    firstBad (c.ranges p) = none → P (c.run p s).1

variable {P : State → Prop}

theorem execute_keeps (kept : KeptByCommands P) (r : Request) (s : State) (h : P s) :
    P (execute r s).1 := by
  unfold execute
  split
  · exact h
  · rename_i c hr hc
    unfold refusal at hr
    rw [hc] at hr
    dsimp only at hr
    split at hr
    · cases hr
    · rename_i hl
      split at hr
      · rename_i hm
        refine kept c _ s h (by simpa using hl) hm ?_
        cases hf : firstBad (c.ranges r.payload) with
        | none => rfl
        | some k => rw [hf] at hr; cases hr
      · cases hr
  · exact h

theorem perform_keeps (core : CoreCondition P) (kept : KeptByCommands P) (r : Request) (s : State) (h : P s) :
    P (perform r s) := by
  unfold perform
  split
  · exact core _ _ (withSlk_same _ _) h
  · exact core _ _ (answer_same r _ _) (execute_keeps kept r s h)

theorem executeLoop_keeps (core : CoreCondition P) (kept : KeptByCommands P) :
    ∀ (fuel : Nat) (s : State), P s → P (executeLoop fuel s)
  | 0, _, h => h
  | fuel + 1, s, h => by
    unfold executeLoop
    split
    · refine executeLoop_keeps core kept fuel _ (core _ _ (serve_same _) ?_)
      unfold executeHead
      split
      · exact h
      · exact perform_keeps core kept _ _ (core _ _ (withSlk_same _ _) h)
    · exact h

theorem finishLink_keeps (core : CoreCondition P) (kept : KeptByCommands P) (s : State) (h : P s) : P (finishLink s) := by
  unfold finishLink
  dsimp only
  split
  · exact core _ _ (serve_same s) h
  · exact executeLoop_keeps core kept _ _ (core _ _ (serve_same s) h)

theorem submit_keeps (core : CoreCondition P) (kept : KeptByCommands P) (r : Request) (s : State) (h : P s) :
    P (submit r s) :=
  executeLoop_keeps core kept _ _ (core _ _ ((dispatch_same r s).trans (serve_same _)) h)

/-! ### Which rows are link commands -/

/-- A row that is a link command submits its frame, with RESETN high (log 10, log 11). -/
theorem exec_submit {i : Instr} {r : Request} (h : requestOf i = some r) (s : State) :
    exec i s = unlessHeld (submit r) s := by
  cases i <;> simp only [requestOf, Option.some.injEq, reduceCtorEq] at h <;> subst h <;> rfl

theorem exec_link {i : Instr} {r : Request} (h : requestOf i = some r) {s : State} (free : s.held = false) :
    exec i s = .next (submit r s) := by
  rw [exec_submit h, unlessHeld_high _ free]

/-- A link command that passes steps 1 to 4 of R158, at a ready link and no repeat, acts and is answered in its step. -/
theorem exec_taken (c : Cmd) {i : Instr} {seq : Byte} {p : List Byte} (hi : requestOf i = some ⟨seq, c.code, p⟩) (s : State)
    (ready : s.linkReady) (fresh : s.fresh seq c.code) (hl : p.length = c.length) (hm : c.takenIn s.run.mode = true)
    (hr : firstBad (c.ranges p) = none) :
    exec i s = .next (respond ⟨seq, c.code, p⟩ (c.run p s).2 (c.run p s).1) := by
  rw [exec_link hi (linkReady_held ready), submit_taken c seq p s ready fresh hl hm hr]

/-- While RESETN is low no command but a reset acts (R135). -/
theorem exec_low (i : Instr) {s : State} (low : s.held = true) (h1 : i ≠ .powerOnReset) (h2 : i ≠ .pinReset) :
    exec i s = .next s := by
  cases i
  case powerOnReset => exact absurd rfl h1
  case pinReset => exact absurd rfl h2
  all_goals exact congrArg Host.Outcome.next (if_pos low)

/-! ### What happens outside the tracking core -/

theorem endTrialAtFrame_same (s : State) : SameCore s (endTrialAtFrame s) := by
  unfold endTrialAtFrame
  split
  · exact withSlk_same _ _
  · exact .refl s

theorem goodFrame_same (s : State) : SameCore s (goodFrame s) := by
  unfold goodFrame
  split
  · exact (endTrialAtFrame_same s).trans (dispatch_same _ _)
  · exact .refl s

theorem receiveAt_same (rate : Fin 6) (v : Byte) (s : State) : SameCore s (receiveAt rate v s) := by
  unfold receiveAt
  split
  · split
    · exact withSlk_same _ _
    · exact .refl s
  · split
    · exact withSlk_same _ _
    · exact withSlk_same _ _
  · exact withSlk_same _ _
  · split
    · exact withSlk_same _ _
    · unfold checkFrame
      dsimp only
      split
      · exact (withSlk_same s _).trans (goodFrame_same _)
      · exact (withSlk_same s _).trans (withSlk_same _ _)

/-! ### The events -/

/-- The two states of LEI have the same settings, position and reach, and the turning point stays or is the present count. -/
structure Steady (l m : Lei) : Prop where
  cfg : m.cfg = l.cfg
  countReg : m.countReg = l.countReg
  sub : m.sub = l.sub
  reach : m.reach = l.reach
  turning : m.turning = l.turning ∨ m.turning = l.countReg

theorem Steady.trans {l m n : Lei} (h : Steady l m) (k : Steady m n) : Steady l n :=
  ⟨k.cfg.trans h.cfg, k.countReg.trans h.countReg, k.sub.trans h.sub, k.reach.trans h.reach,
    k.turning.elim (fun e => h.turning.imp e.trans e.trans) fun e => .inr (e.trans h.countReg)⟩

/-- A condition that the events keep: it reads nothing of the filter of FLT_IN, and of LEI at most what Steady names; and
counts, sub-steps, acts, resets and flushes keep it. -/
structure KeptByEvents (P : State → Prop) : Prop where
  core : CoreCondition P
  steady : ∀ s l, Steady s.lei l → P s → P (s.withLei l)
  count : ∀ (s : State) d, P s → P (s.withLei (s.lei.count s.run.mode d s.partTime))
  subStep : ∀ (s : State), s.lei.subStepsOn s.run.mode = true → P s → P (s.withLei (s.lei.subStep s.run.mode))
  flt : ∀ (s : State) f, P s → P (s.withRun { s.run with flt := f })
  mkd : ∀ s, P s → s.detectorIdle
  acts : ∀ s t, Acts .faults s t → P s → P t
  reset : ∀ pending pins samples sched rate, P (State.atReset pending pins samples sched rate)
  flush : ∀ s, P s → s.run.mode = .stopping → P (flushTo .drainTimeout s)

theorem resetTo_keeps (e : KeptByEvents P) (kind : ResetKind) (rate : Fin 6) (s : State) : P (resetTo kind rate s) := by
  unfold resetTo State.offerMode
  exact e.core _ _ ((offer_same _ _).trans (serve_same _)) (e.reset _ _ _ _ _)

theorem togglePhase_keeps (e : KeptByEvents P) (phase : Phase) (s : State) (h : P s) : P (togglePhase phase s) := by
  unfold togglePhase
  split
  · exact e.core (s.withLei _) _ ⟨rfl, rfl, rfl, rfl, rfl, rfl⟩ (e.steady s _ ⟨rfl, rfl, rfl, rfl, .inl rfl⟩ h)
  · exact e.core (s.withLei _) _ ⟨rfl, rfl, rfl, rfl, rfl, rfl⟩ (e.steady s _ ⟨rfl, rfl, rfl, rfl, .inl rfl⟩ h)

theorem leiEvent_keeps (e : KeptByEvents P) (reverse : Bool) (l : Lei) (s : State) (idle : s.detectorIdle)
    (h : P (s.withLei l)) : P (leiEvent reverse l s) :=
  e.acts _ _ (leiEvent_acts reverse l s idle) h

theorem serve_keeps (e : KeptByEvents P) (s : State) (h : P s) : P (serve s) := e.core _ _ (serve_same s) h

theorem frameEnd_keeps (e : KeptByEvents P) (kept : KeptByCommands P) (s : State) (h : P s) : P (frameEnd s) := by
  unfold frameEnd
  split
  · exact h
  · dsimp only
    split
    · exact finishLink_keeps e.core kept _ (e.core _ _ (withSlk_same _ _) h)
    · exact finishLink_keeps e.core kept _ (e.core s _ ⟨rfl, rfl, rfl, rfl, rfl, rfl⟩ h)
    · exact resetTo_keeps e _ _ _

/-- The tests of one edge are made of acts. -/
theorem edge_acts (input : Fin 4) (active : Bool) (us : List EdgeUser) (s : State) (idle : s.detectorIdle) :
    Acts .faults s (us.foldl (fun s u => u.take input active s) s) := by
  refine Acts.foldl _ State.detectorIdle (fun s u h => ?_) (fun _ _ h a => a.detectorIdle h) _ _ idle
  cases u with
  | detector => exact (detectorEdge_acts input active s h).mono
  | window b w => exact windowEdge_acts b w input active s

theorem toggleSense_same (i : Fin 4) (s : State) : SameCore s (toggleSense i s) := ⟨rfl, rfl, rfl, rfl, rfl, rfl⟩

/-- A condition is kept where the command acts, and so where RESETN holds the part. -/
theorem unlessHeld_keeps {f : State → State} {s t : State} (h : P s) (hf : P (f s)) (ht : unlessHeld f s = .next t) : P t := by
  unfold unlessHeld at ht
  cases ht
  split
  · exact h
  · exact hf

theorem takePhase_keeps (e : KeptByEvents P) (phase : Phase) (s : State) (h : P s) : P (takePhase phase s) := by
  have h1 := togglePhase_keeps e phase s h
  unfold takePhase
  dsimp only
  split
  · exact h1
  · exact leiEvent_keeps e _ _ _ (e.mkd _ h1) (e.count _ _ h1)

theorem takeIllegal_keeps (e : KeptByEvents P) (s : State) (h : P s) : P (takeIllegal s) := by
  have h1 := e.steady _ (togglePhase .b (togglePhase .a s)).lei.endRun ⟨rfl, rfl, rfl, rfl, .inl rfl⟩
    (togglePhase_keeps e .b _ (togglePhase_keeps e .a s h))
  unfold takeIllegal
  dsimp only
  split
  · exact e.acts _ _ (raiseCause_acts _ _) h1
  · exact e.core _ _ (offer_same _ _) h1

theorem takeIndex_keeps (e : KeptByEvents P) (s : State) (h : P s) : P (takeIndex s) := by
  unfold takeIndex
  split
  · have h2 := e.steady _ s.lei.markIndex ⟨rfl, rfl, rfl, rfl, .inl rfl⟩ h
    have h3 : ∀ (c : Bool) body, P (if c then (s.withLei s.lei.markIndex).offer body else s.withLei s.lei.markIndex) :=
      fun c body => by
        split
        · exact e.core _ _ (offer_same _ _) h2
        · exact h2
    dsimp only
    split
    · exact e.acts _ _ (raiseCause_acts _ _) (h3 _ _)
    · exact h3 _ _
  · exact h

theorem takeEdge_keeps (e : KeptByEvents P) (input : Fin 4) (s : State) (h : P s) : P (takeEdge input s) := by
  have h1 := e.core _ _ (toggleSense_same input s) h
  exact e.acts _ _ (edge_acts _ _ _ _ (e.mkd _ h1)) h1

theorem takeByte_keeps (e : KeptByEvents P) (kept : KeptByCommands P) (v : Byte) (s : State) (h : P s) : P (takeByte v s) :=
  finishLink_keeps e.core kept _ (e.core _ _ ((withSlk_same s _).trans (receiveAt_same _ _ _)) h)

/-- Every command keeps a condition that the events and the actions of link commands keep. -/
theorem exec_keeps (e : KeptByEvents P) (kept : KeptByCommands P) (i : Instr) (s t : State) (h : P s)
    (ht : exec i s = .next t) : P t := by
  cases hr : requestOf i with
  | some r =>
    rw [exec_submit hr] at ht
    exact unlessHeld_keeps h (submit_keeps e.core kept r s h) ht
  | none =>
    cases i <;> simp only [requestOf, reduceCtorEq] at hr <;> simp only [exec] at ht
    case powerOnReset => cases ht; exact resetTo_keeps e _ _ _
    case pinReset => cases ht; exact resetTo_keeps e _ _ _
    all_goals refine unlessHeld_keeps h ?_ ht; try dsimp only
    case softReset => split; exacts [frameEnd_keeps e kept s h, h]
    case count phase => exact serve_keeps e _ (takePhase_keeps e phase s h)
    case illegalTransition => exact serve_keeps e _ (takeIllegal_keeps e s h)
    case indexEdge =>
      have h1 : P (raiseZ s) := e.core (s.withLei _) _ ⟨rfl, rfl, rfl, rfl, rfl, rfl⟩
        (e.steady s { s.lei with encZ := .ofSample true } ⟨rfl, rfl, rfl, rfl, .inl rfl⟩ h)
      exact serve_keeps e _ (takeIndex_keeps e _ h1)
    case subStep =>
      split
      · rename_i hd
        refine serve_keeps e _ (leiEvent_keeps e _ _ _ (e.mkd s h) (e.subStep s ?_ h))
        simp only [Lei.subStepDue, Bool.and_eq_true] at hd
        exact hd.2
      · exact h
    case standstillWatchExpiry =>
      split
      · refine serve_keeps e _ (leiEvent_keeps e _ _ _ (e.mkd s h) (e.steady s _ ?_ h))
        unfold Lei.standStill
        dsimp only
        split
        · exact ⟨rfl, rfl, rfl, rfl, .inl rfl⟩
        · exact ⟨rfl, rfl, rfl, rfl, .inr rfl⟩
      · exact h
    case senseEdge input => exact serve_keeps e _ (takeEdge_keeps e input s h)
    case fltInActivation =>
      split
      · exact h
      · refine serve_keeps e _ (e.acts _ _ (raiseCause_acts _ _) ?_)
        exact e.core (s.withRun _) _ ⟨rfl, rfl, rfl, rfl, rfl, rfl⟩ (e.flt s (.ofSample false) h)
    case fltInRelease =>
      split
      · refine serve_keeps e _ ?_
        exact e.core (s.withRun _) _ ⟨rfl, rfl, rfl, rfl, rfl, rfl⟩ (e.flt s (.ofSample true) h)
      · exact h
    case maxOnDeadlineExpiry b n => split; exacts [serve_keeps e _ (e.acts _ _ (endPulseOf_acts _ _ _ _) h), h]
    case timePulseEnd b n => split; exacts [serve_keeps e _ (e.acts _ _ (endPulseOf_acts _ _ _ _) h), h]
    case drainDeadlineExpiry =>
      split
      · rename_i hd
        refine serve_keeps e _ (e.flush s h ?_)
        simp only [State.drainDue, Bool.and_eq_true, beq_iff_eq] at hd
        exact hd.1
      · exact h
    case receiveByte v => exact takeByte_keeps e kept v s h
    case gapWatchExpiry => split; exacts [e.core _ _ (withSlk_same _ _) h, h]
    case transmitEnd => exact frameEnd_keeps e kept s h
    case linkRateChange => split; exacts [frameEnd_keeps e kept s h, h]
    case trialDeadlineExpiry =>
      split
      · exact e.core _ _ ((withSlk_same s _).trans ((offer_same _ _).trans (serve_same _))) h
      · exact h

/-! ### The idle step -/

/-- The states agree but for LEI, the filter of FLT_IN and what SameCore leaves out. -/
def Ticked (s t : State) : Prop :=
  ∃ l f, Steady s.lei l ∧ SameCore ((s.withLei l).withRun { s.run with flt := f }) t

theorem Ticked.of_same {s t : State} (h : SameCore s t) : Ticked s t :=
  ⟨s.lei, s.run.flt, ⟨rfl, rfl, rfl, rfl, .inl rfl⟩, h⟩

theorem Ticked.trans {s t u : State} (h : Ticked s t) (k : Ticked t u) : Ticked s u := by
  obtain ⟨l, f, a, h⟩ := h
  obtain ⟨l', f', b, k⟩ := k
  have hl : t.lei = l := h.lei
  rw [hl] at b
  refine ⟨l', f', a.trans b, ⟨k.lei, k.mkd.trans h.mkd, k.iq.trans h.iq, k.banks.trans h.banks, k.act.trans h.act, ?_⟩⟩
  rw [k.run]
  simp only [State.withRun_run, h.run]

theorem advanceClock_same (s : State) : SameCore s (advanceClock s) := by
  unfold advanceClock
  split <;> exact ⟨rfl, rfl, rfl, rfl, rfl, rfl⟩

theorem takeSample_same (s : State) : SameCore s (takeSample s) := by
  unfold takeSample
  split
  · exact .refl s
  · exact ⟨rfl, rfl, rfl, rfl, rfl, rfl⟩

theorem sampler_ticked (f : State → State × List Instr) (h : f ∈ samplers) (s : State) : Ticked s (f s).1 := by
  unfold samplers at h
  simp only [List.cons_append, List.mem_cons, List.mem_append, List.mem_map, List.not_mem_nil,
    or_false] at h
  rcases h with rfl | ⟨i, -, rfl⟩ | rfl | rfl
  · exact ⟨(sampleEncoder s).1.lei, s.run.flt, ⟨rfl, rfl, rfl, rfl, .inl rfl⟩, rfl, rfl, rfl, rfl, rfl, rfl⟩
  · exact ⟨s.lei, s.run.flt, ⟨rfl, rfl, rfl, rfl, .inl rfl⟩, rfl, rfl, rfl, rfl, rfl, rfl⟩
  · exact ⟨s.lei, _, ⟨rfl, rfl, rfl, rfl, .inl rfl⟩, rfl, rfl, rfl, rfl, rfl, rfl⟩
  · exact .of_same (withSlk_same _ _)

theorem sampleAll_ticked : ∀ (fs : List (State → State × List Instr)) (_ : ∀ f ∈ fs, f ∈ samplers) (s : State),
    Ticked s (sampleAll fs s).1
  | [], _, s => .of_same (.refl s)
  | f :: fs, h, s => (sampler_ticked f (h f List.mem_cons_self) s).trans
      (sampleAll_ticked fs (fun g hg => h g (List.mem_cons_of_mem _ hg)) _)

/-- A tick without a soft reset among its events queues them all. -/
theorem upToReset_eq : ∀ {l : List Instr}, .softReset ∉ l → upToReset l = l
  | [], _ => rfl
  | i :: l, h => by
    have hi : i ≠ .softReset := fun e => h (e ▸ List.mem_cons_self)
    rw [upToReset, upToReset_eq fun m => h (List.mem_cons_of_mem _ m)]
    exact hi

/-- A tick with a soft reset among its events queues those that come before it, and the reset. -/
theorem upToReset_append : ∀ {before : List Instr} (after : List Instr), .softReset ∉ before →
    upToReset (before ++ .softReset :: after) = before ++ [.softReset]
  | [], _, _ => rfl
  | i :: before, after, h => by
    have hi : i ≠ .softReset := fun e => h (e ▸ List.mem_cons_self)
    rw [List.cons_append, upToReset, upToReset_append after fun m => h (List.mem_cons_of_mem _ m)]
    · rfl
    · exact hi

/-- What one fine tick of a part that is not held changes of the tracking core, the line and run control (log 3). -/
theorem runTick_ticked (s : State) : Ticked s (runTick s) := by
  have h2 : Ticked (advanceClock s)
      (((advanceClock s).withLei (advanceClock s).lei.tick).withSlk
        { (advanceClock s).slk with tx := (advanceClock s).slk.tx.tick }) :=
    ⟨(advanceClock s).lei.tick, (advanceClock s).run.flt, ⟨rfl, rfl, rfl, rfl, .inl rfl⟩, rfl, rfl, rfl, rfl, rfl, rfl⟩
  exact (((Ticked.of_same (advanceClock_same s)).trans h2).trans
    (sampleAll_ticked samplers (fun _ h => h) _)).trans (.of_same (withPending_same _ _))

theorem Ticked.keeps (e : KeptByEvents P) {s t : State} (k : Ticked s t) (h : P s) : P t := by
  obtain ⟨l, f, hl, hs⟩ := k
  exact e.core _ _ hs (e.flt (s.withLei l) f (e.steady s l hl h))

theorem fineTick_keeps (e : KeptByEvents P) (s : State) (h : P s) : P (fineTick s) := by
  unfold fineTick
  dsimp only
  split
  · exact e.reset _ _ _ _ _
  · split
    · exact e.core _ _ (withPending_same _ _) (e.reset _ _ _ _ _)
    · exact (runTick_ticked _).keeps e (e.core _ _ (takeSample_same s) h)

theorem idleStep_keeps (e : KeptByEvents P) (kept : KeptByCommands P) (s : State) (h : P s) : P (idleStep s) := by
  unfold idleStep
  split
  · exact executeLoop_keeps e.core kept _ _ h
  · exact fineTick_keeps e s h

/-- Every step keeps a condition that the events and the actions of link commands keep. -/
theorem step_keeps (e : KeptByEvents P) (kept : KeptByCommands P) (s t : State) (h : P s) (ht : step s = .next t) : P t := by
  unfold step at ht
  split at ht
  · cases ht; exact idleStep_keeps e kept s h
  · rename_i c rest _
    exact exec_keeps e kept c (s.withPending rest) t (e.core s _ (withPending_same s rest) h) ht

end Sys2Proof.Machine
end

