-- ==== Sys2Proof/Laws/Commands.lean ====
section
/-! SUPPORT. What the actions of the link commands do to the blocks, said once. -/

namespace Sys2Proof.Machine

/-- An edit of a bank changes nothing, or edits the bank it names (R108). -/
theorem edit_cases (p : List Byte) (f : Bank → Bank) (s : State) :
    (editBank p f s).1 = s ∨ ((editRefusal s.run.mode (s.bank (asFin 2 (byteAt p 0))).state = none) ∧
      (editBank p f s).1 = s.modBank (asFin 2 (byteAt p 0)) f) := by
  unfold editBank
  dsimp only
  split
  · exact .inl rfl
  · rename_i h; exact .inr ⟨h, rfl⟩

/-- Changes of lines one after another change the lines and nothing else. -/
theorem foldLines (fs : List (Fin 16)) (g : Fin 16 → Line → Line) (s : State) :
    ∃ v : Vector Line 16, fs.foldl (fun s n => s.modLine n (g n)) s = s.withAct v := by
  induction fs generalizing s with
  | nil => exact ⟨s.act, rfl⟩
  | cons a l ih =>
    obtain ⟨v, h⟩ := ih (s.modLine a (g a))
    exact ⟨v, h⟩

theorem startRun_rest (s : State) : (startRun s).run = { s.run with mode := .run } ∧ (startRun s).iq = s.iq ∧
    (startRun s).banks = s.banks ∧
    (startRun s).lei = { s.lei with reach := s.lei.position, indexRef := false } := by
  simp [startRun, State.offerMode, State.mapLines]

/-! ### Commands that are made of acts -/

theorem inject_acts (s : State) (h : s.run.mode = .run) : Acts .tracking s (runItemInject s).1 := by
  unfold runItemInject
  split
  · dsimp only
    split <;> exact createItem_acts (by decide) _ _ s h
  · exact .refl s

theorem tag_acts (p : List Byte) (s : State) : Acts .tracking s (runItemTag p s).1 := by
  unfold runItemTag
  dsimp only
  split
  · exact .refl s
  · exact .item s _ _ (fun _ => rfl) (fun _ => rfl)

theorem verdict_acts (p : List Byte) (s : State) : Acts .tracking s (runItemVerdict p s).1 := by
  unfold runItemVerdict
  dsimp only
  split
  · exact .refl s
  · split
    · exact .refl s
    · exact .item s _ _ (fun _ => rfl) (fun _ => rfl)

/-! ### The removal of every item (R60) -/

theorem removeItems_rest (s : State) : (removeItems s).1.run = s.run ∧ (removeItems s).1.lei = s.lei ∧
    (removeItems s).1.mkd = s.mkd ∧ (removeItems s).1.act = s.act ∧
    (removeItems s).1.iq = { s.iq with items := [] } := ⟨rfl, rfl, rfl, rfl, rfl⟩

theorem removeItems_bank (s : State) (b : Fin 2) : ((removeItems s).1.bank b).count = 0 ∧
    ((removeItems s).1.bank b).state = (if (s.bank b).state = .draining then .idle else (s.bank b).state) ∧
    ((removeItems s).1.bank b).activation = (s.bank b).activation := by
  have h := dropCursors_bank_entries s b
  have e : (removeItems s).1.bank b = ((dropCursors s).bank b).emptied := by
    show ((dropCursors s).mapBanks Bank.emptied).bank b = _
    simp
  rw [e]
  refine ⟨rfl, ?_, h.2.2⟩
  simp only [Bank.emptied, h.1, beq_iff_eq]

theorem removeItems_banksLegal {s : State} (h : s.banksLegal) : (removeItems s).1.banksLegal := by
  have hb := removeItems_bank s
  obtain ⟨h1, h2⟩ := h
  have key : ∀ b, ((removeItems s).1.bank b).state = .active ↔ (s.bank b).state = .active := fun b => by
    rw [(hb b).2.1]; split
    · rename_i e; rw [e]; simp
    · rfl
  refine ⟨by rw [key, Ne, key]; exact h1, fun b => ⟨fun e => ?_, fun e => ?_⟩⟩
  · rw [(hb b).2.1] at e
    split at e
    · cases e
    · exact (h2 b).1 e
  · rw [(hb b).2.1] at e
    split at e
    · cases e
    · rename_i hn; exact absurd e hn

/-- RUN_STOP DRAIN taken: STOPPING with the detector IDLE, then the drain's end when no item is queued (R125, R127). -/
theorem startDrain_eq (limit : Nat) (s : State) : ∃ u : State, ∃ drain : Option Time,
    u = ((s.withRun { s.run with mode := .stopping, drain := drain }).withMkd s.mkd.toIdle).offerMode .run .drain .nothing
      none ∧
    drain = (if limit = 0 then none else some (s.partTime + BitVec.ofNat 32 (limit * 1000))) ∧
    startDrain limit s = if s.iq.items.isEmpty then enterConfigure .drained .nothing u else u := by
  refine ⟨_, _, rfl, rfl, ?_⟩
  unfold startDrain
  simp [State.offerMode]

end Sys2Proof.Machine
end

