-- ==== Sys2Proof/Laws/Changes.lean ====
section
/-! SUPPORT. The changes of mode as Safety.lean describes them: entry to FAULT, and every removal of the items. -/

namespace Sys2Proof.Machine

/-- In RUN and STOPPING a cause is an entry to FAULT. -/
theorem raiseCause_running (cause : Cause) (s : State) (h : s.running = true) : raiseCause cause s = enterFault cause s := by
  unfold raiseCause
  cases m : s.run.mode <;> simp [State.running, m, Mode.running] at h <;> rfl

/-- A cause taken in RUN and STOPPING: the entry to FAULT, then N_FAULT (R130). -/
theorem raiseCause_entered (cause : Cause) (s : State) (h : s.running = true) :
    ∃ v, s.faultEntered cause v ∧ raiseCause cause s = v.offer (.fault cause v.run.first v.run.faults s.run.mode
      s.lei.position s.lei.reach s.lei.motion s.iq.items.length s.headNo) := by
  obtain ⟨v, hv, hr, hi, hm, hl, hst, hw, hli, hn, hb⟩ := enterFault_eq cause s
  have hf : v.fixed = s.fixed := by rw [← offer_fixed v, ← hv]; exact enterFault_fixed cause s
  refine ⟨v, ⟨by rw [hr], by rw [hr], by rw [hr], by rw [hr], by rw [hr], hl, hi, hm, hf, hst, hw, fun l => ⟨hli l, ?_⟩,
    fun b => ⟨(hb b).1, (hb b).2.2, ?_⟩, hn⟩, ?_⟩
  · unfold State.pinActive; rw [hr]
  · rw [(hb b).2.1]
    unfold cancelledBank
    cases h : s.armedBank with
    | none => rfl
    | some a =>
      by_cases e : b = a
      · subst e; simp
      · simp [e, Ne.symm e]
  · rw [raiseCause_running cause s h, hv]

/-- The ARMED bank of a legal state is the one that armedBank finds. -/
theorem armedBank_of_state {s : State} (hl : s.banksLegal) {b : Fin 2} (h : (s.bank b).state = .armed) :
    s.armedBank = some b := by
  cases e : s.armedBank with
  | none => exact absurd h (armedBank_none e b)
  | some c =>
    have hc := armedBank_some e
    have o := hl.other h
    rcases eq_or_other b c with rfl | rfl
    · rfl
    · rw [o] at hc; cases hc

theorem armedBank_of_none {s : State} (h : ∀ b, (s.bank b).state ≠ .armed) : s.armedBank = none := by
  cases e : s.armedBank with
  | none => rfl
  | some c => exact absurd (armedBank_some e) (h c)

/-- The removal of every item with the entry to CONFIGURE, then its N_MODE (R128, R132). -/
theorem flushTo_flushed (reason : ModeReason) (s : State) (legal : s.banksLegal) :
    ∃ v, s.flushed v ∧ v.run = { s.run with mode := .configure, drain := none } ∧
      flushTo reason s = v.offer (.mode .configure s.run.mode reason s.iq.items.length s.headNo s.tailNo s.lei.position
        s.lei.position v.activeBank none) := by
  have hfix := flushTo_fixed reason s
  unfold flushTo at hfix ⊢
  obtain ⟨v, hv, hr, hi, hm, hle, hst, hw, hli, hn, hb⟩ := enterConfigure_eq reason (removeItems s).2 (removeItems s).1
  obtain ⟨r1, r2, r3, -, r5⟩ := removeItems_rest s
  have rb := removeItems_bank s
  have arm : (removeItems s).1.armedBank = s.armedBank := by
    unfold State.armedBank
    congr 1
    funext b
    rw [(rb b).2.1]
    split
    · rename_i e; rw [e]; rfl
    · rfl
  rw [arm] at hb hn
  refine ⟨v, ⟨by rw [hr], by rw [hr], by rw [hi, r5], by rw [hm, r3]; rfl, by rw [hle, r2],
    by rw [← offer_fixed v, ← hv]; exact hfix, fun b n => ?_, fun b w => ?_, fun l => by rw [hli]; rfl,
    fun b => by rw [(hb b).1, (rb b).1], fun b hab => ?_, fun h b => ?_, ?_⟩, by rw [hr, r1], by rw [hv, r1, r2]; rfl⟩
  · have e : (removeItems s).1.station b n = { s.station b n with run := (s.station b n).run.dropCursor } := by
      show ((dropCursors s).mapBanks Bank.emptied).station b n = _
      rw [mapBanks_station _ _ _ Bank.emptied (fun _ => rfl), dropCursors_station]
    rw [hst, e]
    cases h : (s.station b n).run.on <;> simp [StationRun.dropCursor, StationRun.endPulse, StationRun.stopped, h]
  · have e : (removeItems s).1.window b w = { s.window b w with run := (s.window b w).run.dropCursor } := by
      show ((dropCursors s).mapBanks Bank.emptied).window b w = _
      rw [mapBanks_window _ _ _ Bank.emptied (fun _ => rfl), dropCursors_window]
    rw [hw, e]; rfl
  · rw [armedBank_of_state legal hab] at hb
    refine ⟨?_, ?_, ?_⟩
    · rw [(hb b).2.1]; simp [configuredBank, Bank.activate]
    · rw [(hb b).2.2]; simp [configuredBank, Bank.activate]
    · rw [(hb _).2.1]; simp [configuredBank, otherBank_ne]
  · rw [armedBank_of_none h] at hb
    obtain ⟨-, e1, e2⟩ := hb b
    exact ⟨by rw [e2]; exact (rb b).2.2, by rw [e1]; exact (rb b).2.1⟩
  · rw [r2] at hn
    exact hn

end Sys2Proof.Machine
end

