-- ==== Sys2Proof/Laws/Line.lean ====
section
/-! SUPPORT. What one count and one sub-step leave in each field of the line encoder interface. -/

namespace Sys2Proof.Machine

/-! ### The parts of a count touch their own fields only -/

theorem measure_fields (d : Dir) (l : Lei) : l.measure d = { l with
    interval := (l.measure d).interval, valid := (l.measure d).valid, sameDir := (l.measure d).sameDir, sinceCount := 0 } := by
  unfold Lei.measure
  split
  · rfl
  · split <;> rfl

theorem track_fields (d : Dir) (l : Lei) : l.track d = { l with
    motion := (l.track d).motion, turning := (l.track d).turning } := by
  unfold Lei.track Lei.turn
  dsimp only
  split <;> (try split) <;> (try split) <;> rfl

theorem indexOnCount_fields (d : Dir) (l : Lei) : l.indexOnCount d = { l with
    indexCount := (l.indexOnCount d).indexCount, indexRef := (l.indexOnCount d).indexRef, lastDir := some d } := by
  unfold Lei.indexOnCount
  dsimp only
  split
  · rfl
  · split <;> rfl

theorem follow_fields (mode : Mode) (l : Lei) : l.follow mode = { l with reach := (l.follow mode).reach } := by
  unfold Lei.follow
  split <;> (try split) <;> rfl

/-- The reach after a change of the position (R11, R12). -/
theorem follow_reach (mode : Mode) (l : Lei) : (l.follow mode).reach =
    if mode = .configure then l.position
    else if mode = .fault then l.reach
    else if atOrBeyond l.position l.reach then l.position else l.reach := by
  unfold Lei.follow
  cases mode <;> simp
  all_goals split <;> rfl

/-- A measurement depends on nothing that a move or a motion state changes. -/
theorem measure_congr (d : Dir) {l m : Lei} (sameDir : m.sameDir = l.sameDir) (interval : m.interval = l.interval)
    (valid : m.valid = l.valid) (since : m.sinceCount = l.sinceCount) :
    (m.measure d).interval = (l.measure d).interval ∧ (m.measure d).valid = (l.measure d).valid ∧
      (m.measure d).sameDir = (l.measure d).sameDir := by
  unfold Lei.measure
  rw [sameDir]
  split
  · exact ⟨interval, rfl, rfl⟩
  · split
    · exact ⟨by simp only [since], by simp only [valid], rfl⟩
    · exact ⟨interval, rfl, rfl⟩

theorem track_congr (d : Dir) {l m : Lei} (cfg : m.cfg = l.cfg) (reg : m.countReg = l.countReg)
    (motion : m.motion = l.motion) (turning : m.turning = l.turning) :
    (m.track d).motion = (l.track d).motion ∧ (m.track d).turning = (l.track d).turning := by
  have he : m.excursion = l.excursion := by unfold Lei.excursion Lei.countModulus; rw [cfg, reg, turning]
  unfold Lei.track Lei.turn
  dsimp only
  rw [motion, cfg, he]
  split <;> (try split) <;> (try split) <;> exact ⟨by first | rfl | exact motion, by first | exact reg | exact turning⟩

theorem indexOnCount_congr (d : Dir) {l m : Lei} (cfg : m.cfg = l.cfg) (count : m.indexCount = l.indexCount)
    (ref : m.indexRef = l.indexRef) (last : m.lastDir = l.lastDir) :
    (m.indexOnCount d).indexCount = (l.indexOnCount d).indexCount ∧
      (m.indexOnCount d).indexRef = (l.indexOnCount d).indexRef := by
  unfold Lei.indexOnCount
  dsimp only
  rw [cfg]
  split
  · exact ⟨count, ref⟩
  · split
    · exact ⟨by simp only [count], by simp only [ref, last]⟩
    · exact ⟨count, rfl⟩

/-- What a count leaves in LEI, each field from the state before it. -/
structure CountLeaves (mode : Mode) (d : Dir) (now : Time) (l c : Lei) : Prop where
  cfg : c.cfg = l.cfg
  levels : c.encA = l.encA ∧ c.encB = l.encB ∧ c.encZ = l.encZ
  countReg : c.countReg = (l.move d).countReg
  sub : c.sub = 0
  interval : c.interval = (l.measure d).interval
  valid : c.valid = (l.measure d).valid
  sameDir : c.sameDir = (l.measure d).sameDir
  sinceCount : c.sinceCount = 0
  motion : c.motion = ((l.move d).track d).motion
  turning : c.turning = ((l.move d).track d).turning
  indexCount : c.indexCount = (l.indexOnCount d).indexCount
  indexRef : c.indexRef = (l.indexOnCount d).indexRef
  lastDir : c.lastDir = some d
  standstill : c.standstill = some now
  position : c.position = (l.move d).position
  reach : c.reach =
    if mode = .configure then c.position
    else if mode = .fault then l.reach
    else if atOrBeyond c.position l.reach then c.position else l.reach

theorem count_leaves (mode : Mode) (d : Dir) (now : Time) (l : Lei) : CountLeaves mode d now l (l.count mode d now) := by
  obtain ⟨m1, m2, m3⟩ := measure_congr d (l := l) (m := l.move d) rfl rfl rfl rfl
  have ms := measure_fields d (l.move d)
  obtain ⟨t1, t2⟩ := track_congr d (l := l.move d) (m := (l.move d).measure d) (by rw [ms]) (by rw [ms]) (by rw [ms]) (by rw [ms])
  have ts := track_fields d ((l.move d).measure d)
  obtain ⟨i1, i2⟩ := indexOnCount_congr d (l := l) (m := ((l.move d).measure d).track d) (by rw [ts, ms]; rfl)
    (by rw [ts, ms]; rfl) (by rw [ts, ms]; rfl) (by rw [ts, ms]; rfl)
  have is := indexOnCount_fields d (((l.move d).measure d).track d)
  have key : ∀ x : Lei, x = { (((l.move d).measure d).track d).indexOnCount d with standstill := some now } →
      ∀ c : Lei, (∃ sub, c = { x.follow mode with subTimer := sub }) → CountLeaves mode d now l c := by
    rintro x hx c ⟨sub, hc⟩
    have fs := follow_fields mode x
    have xs : x = { l.move d with
        interval := (l.measure d).interval, valid := (l.measure d).valid, sameDir := (l.measure d).sameDir, sinceCount := 0
        motion := ((l.move d).track d).motion, turning := ((l.move d).track d).turning
        indexCount := (l.indexOnCount d).indexCount, indexRef := (l.indexOnCount d).indexRef, lastDir := some d
        standstill := some now } := by
      rw [hx, is, i1, i2, ts, t1, t2, ms, m1, m2, m3]
    have fr := follow_reach mode x
    have hr : x.reach = l.reach := by rw [xs]; rfl
    rw [hr] at fr
    rw [hc, fs, xs]
    refine ⟨rfl, ⟨rfl, rfl, rfl⟩, rfl, rfl, rfl, rfl, rfl, rfl, rfl, rfl, rfl, rfl, rfl, rfl, rfl, ?_⟩
    rw [← xs]
    exact fr
  unfold Lei.count
  dsimp only
  split
  · exact key _ rfl _ ⟨_, rfl⟩
  · exact key _ rfl _ ⟨_, rfl⟩

theorem move_lt (d : Dir) (l : Lei) : (l.move d).countReg < l.countModulus := by
  have : 0 < l.countModulus := Nat.pow_pos (by decide)
  unfold Lei.move
  cases d <;> exact Nat.mod_lt _ this

/-- A reverse count stops the sub-step timer (R7). -/
theorem count_reverse_timer (mode : Mode) (now : Time) (l : Lei) : (l.count mode .reverse now).subTimer = none := rfl

/-- The sub-step timer after a count: a forward count restarts it while the conditions hold, and any other count stops it (R7). -/
theorem count_subTimer (mode : Mode) (d : Dir) (now : Time) (l : Lei) :
    (l.count mode d now).subTimer =
      if d = .forward ∧ (l.count mode d now).motion = .forward ∧ (l.count mode d now).valid = true ∧
          (l.count mode d now).position = (l.count mode d now).reach ∧
          (l.count mode d now).sub + 1 < 2 ^ (l.count mode d now).cfg.s ∧ mode ≠ .fault then
        some (max 1 ((l.count mode d now).interval / 2 ^ (l.count mode d now).cfg.s))
      else none := by
  have key : ∀ x : Lei, (x.restartSub mode).subTimer =
      if (x.restartSub mode).motion = .forward ∧ (x.restartSub mode).valid = true ∧
          (x.restartSub mode).position = (x.restartSub mode).reach ∧
          (x.restartSub mode).sub + 1 < 2 ^ (x.restartSub mode).cfg.s ∧ mode ≠ .fault then
        some (max 1 ((x.restartSub mode).interval / 2 ^ (x.restartSub mode).cfg.s))
      else none := by
    intro x
    simp only [Lei.restartSub, Lei.subStepsOn, Lei.atFrontier, Lei.period, Lei.position, Bool.and_eq_true, beq_iff_eq,
      bne_iff_ne, decide_eq_true_eq, and_assoc]
  cases d with
  | forward =>
    simp only [true_and]
    exact key _
  | reverse => simp [count_reverse_timer]

/-- A count moves the position to the count boundary after or before it (R4). -/
theorem move_position (d : Dir) (l : Lei) (hs : l.cfg.s ≤ 6) (hsub : l.sub < 2 ^ l.cfg.s) :
    (l.move d).position = (match d with
      | .forward => l.position + BitVec.ofNat 32 (2 ^ l.cfg.s - l.sub)
      | .reverse => l.position - BitVec.ofNat 32 (2 ^ l.cfg.s + l.sub)) := by
  have hm : l.countModulus * 2 ^ l.cfg.s = 2 ^ 32 := by unfold Lei.countModulus; rw [← Nat.pow_add]; congr 1; omega
  have hp : 0 < l.countModulus := Nat.pow_pos (by decide)
  cases d
  · simp only [Lei.move, Lei.position]
    apply BitVec.eq_of_toNat_eq
    simp only [BitVec.toNat_ofNat, BitVec.toNat_add, Nat.add_zero]
    rw [← Nat.add_mod]
    rw [show l.countReg * 2 ^ l.cfg.s + l.sub + (2 ^ l.cfg.s - l.sub) = (l.countReg + 1) * 2 ^ l.cfg.s by
      rw [Nat.add_mul]; omega]
    rw [← hm, Nat.mul_mod_mul_right, Nat.mul_mod_mul_right, Nat.mod_mod]
  · simp only [Lei.move, Lei.position]
    have hle : 2 ^ l.cfg.s ≤ 2 ^ 6 := Nat.pow_le_pow_right (by decide) hs
    apply BitVec.eq_of_toNat_eq
    rw [BitVec.toNat_sub]
    simp only [BitVec.toNat_ofNat, Nat.add_zero]
    rw [Nat.mod_eq_of_lt (show 2 ^ l.cfg.s + l.sub < 2 ^ 32 by omega), Nat.add_mod_mod]
    rw [show 2 ^ 32 - (2 ^ l.cfg.s + l.sub) + (l.countReg * 2 ^ l.cfg.s + l.sub) =
        (l.countReg + l.countModulus - 1) * 2 ^ l.cfg.s by rw [Nat.sub_mul, Nat.add_mul, hm]; omega]
    rw [← hm, Nat.mul_mod_mul_right, Nat.mul_mod_mul_right, Nat.mod_mod]

/-- The motion state and the turning point after a count, by the excursion (R10). -/
theorem track_motion (d : Dir) (l : Lei) :
    (l.track d).motion = (match l.motion, d with
      | .forward, .reverse => if l.excursion < -(l.cfg.revThreshold : Int) then .reverse else .forward
      | .reverse, .forward => if (l.cfg.revThreshold : Int) < l.excursion then .forward else .reverse
      | .halted, _ =>
        if (l.cfg.revThreshold : Int) < l.excursion then .forward
        else if l.excursion < -(l.cfg.revThreshold : Int) then .reverse else .halted
      | m, _ => m) ∧
    (l.track d).turning =
      (if (l.track d).motion ≠ l.motion ∨ (l.motion = .forward ∧ d = .forward ∧ 0 < l.excursion) ∨
          (l.motion = .reverse ∧ d = .reverse ∧ l.excursion < 0) then l.countReg else l.turning) := by
  unfold Lei.track Lei.turn
  generalize l.excursion = e
  cases m : l.motion <;> cases d <;> dsimp only <;> by_cases a : (l.cfg.revThreshold : Int) < e <;>
    by_cases b : e < -(l.cfg.revThreshold : Int) <;> by_cases c : 0 < e <;> by_cases c' : e < 0 <;> simp [a, b, c, c', m]

end Sys2Proof.Machine
end

