-- ==== Sys2Proof/Laws/Events.lean ====
section
/-! SUPPORT. What each event does with RESETN high, and the events of the encoder as one new state of LEI followed by acts. -/

namespace Sys2Proof.Machine

/-! ### What each event does with RESETN high -/

theorem exec_count_high (phase : Phase) {s : State} (free : s.held = false) : exec (.count phase) s = .next
    (serve (takePhase phase s)) :=
  unlessHeld_high (fun s =>
    serve (takePhase phase s)) free

theorem exec_illegalTransition_high {s : State} (free : s.held = false) : exec .illegalTransition s = .next
    (serve (takeIllegal s)) :=
  unlessHeld_high (fun s =>
    serve (takeIllegal s)) free

theorem exec_indexEdge_high {s : State} (free : s.held = false) : exec .indexEdge s = .next
    (serve (takeIndex (raiseZ s))) :=
  unlessHeld_high (fun s =>
    serve (takeIndex (raiseZ s))) free

theorem exec_subStep_high {s : State} (free : s.held = false) : exec .subStep s = .next
    (if s.lei.subStepDue s.run.mode then serve (leiEvent false (s.lei.subStep s.run.mode) s) else s) :=
  unlessHeld_high (fun s =>
    if s.lei.subStepDue s.run.mode then serve (leiEvent false (s.lei.subStep s.run.mode) s) else s) free

theorem exec_standstill_high {s : State} (free : s.held = false) : exec .standstillWatchExpiry s = .next
    (if s.lei.standstillDue s.partTime then serve (leiEvent false s.lei.standStill s) else s) :=
  unlessHeld_high (fun s =>
    if s.lei.standstillDue s.partTime then serve (leiEvent false s.lei.standStill s) else s) free

theorem exec_senseEdge_high (input : Fin 4) {s : State} (free : s.held = false) : exec (.senseEdge input) s = .next
    (serve (takeEdge input s)) :=
  unlessHeld_high (fun s =>
    serve (takeEdge input s)) free

theorem exec_fltInActivation_high {s : State} (free : s.held = false) : exec .fltInActivation s = .next
    (if s.fltActive then s else serve (raiseCause .external (setFlt false s))) :=
  unlessHeld_high (fun s =>
    if s.fltActive then s else serve (raiseCause .external (setFlt false s))) free

theorem exec_fltInRelease_high {s : State} (free : s.held = false) : exec .fltInRelease s = .next
    (if s.fltActive then serve (setFlt true s) else s) :=
  unlessHeld_high (fun s =>
    if s.fltActive then serve (setFlt true s) else s) free

theorem exec_maxOnDeadline_high (b : Fin 2) (n : Fin 16) {s : State} (free : s.held = false) : exec (.maxOnDeadlineExpiry b n) s = .next
    (if s.maxOnDue b n then serve (endPulseOf b n .deadline s) else s) :=
  unlessHeld_high (fun s =>
    if s.maxOnDue b n then serve (endPulseOf b n .deadline s) else s) free

theorem exec_timePulseEnd_high (b : Fin 2) (n : Fin 16) {s : State} (free : s.held = false) : exec (.timePulseEnd b n) s = .next
    (if s.timeEndDue b n then serve (endPulseOf b n .target s) else s) :=
  unlessHeld_high (fun s =>
    if s.timeEndDue b n then serve (endPulseOf b n .target s) else s) free

theorem exec_drainDeadline_high {s : State} (free : s.held = false) : exec .drainDeadlineExpiry s = .next
    (if s.drainDue then serve (flushTo .drainTimeout s) else s) :=
  unlessHeld_high (fun s =>
    if s.drainDue then serve (flushTo .drainTimeout s) else s) free

theorem exec_receiveByte_high (v : Byte) {s : State} (free : s.held = false) : exec (.receiveByte v) s = .next
    (takeByte v s) :=
  unlessHeld_high (fun s =>
    takeByte v s) free

theorem exec_gapWatch_high {s : State} (free : s.held = false) : exec .gapWatchExpiry s = .next
    (if s.gapDue then s.withSlk { s.slk with rx := s.slk.rx.hunt, gapErrors := bump s.slk.gapErrors } else s) :=
  unlessHeld_high (fun s =>
    if s.gapDue then s.withSlk { s.slk with rx := s.slk.rx.hunt, gapErrors := bump s.slk.gapErrors } else s) free

theorem exec_transmitEnd_high {s : State} (free : s.held = false) : exec .transmitEnd s = .next
    (frameEnd s) :=
  unlessHeld_high (fun s =>
    frameEnd s) free

theorem exec_trialDeadline_high {s : State} (free : s.held = false) : exec .trialDeadlineExpiry s = .next
    (if s.trialDue then serve (revertRate s) else s) :=
  unlessHeld_high (fun s =>
    if s.trialDue then serve (revertRate s) else s) free

/-! ### The blocks at one event of the line -/

theorem stationPlaces_eq : stationPlaces = allStations := rfl

theorem windowPlaces_eq : windowPlaces = allWindows := rfl

/-- What leiEvent does is what State.blocksAct says, in the order that the state gives (R11, log 6). -/
theorem leiEvent_blocksAct (reverse : Bool) (l : Lei) (s : State) : s.blocksAct reverse l (leiEvent reverse l s) := by
  refine ⟨arrange s.sched.tasks (eventTasks reverse s (s.withLei l)), ?_, ?_⟩
  · refine (arrange_perm _ _).trans (.of_eq ?_)
    have reach : (s.lei.reach = (s.withLei l).lei.reach) = (l.reach = s.lei.reach) := propext eq_comm
    have lead : (fun p : Fin 2 × Fin 16 => s.lead p.1 p.2 != (s.withLei l).lead p.1 p.2) =
        fun p => decide (s.lead p.1 p.2 ≠ (s.withLei l).lead p.1 p.2) := by
      funext p
      simp only [bne, ne_eq, decide_not]
      rfl
    unfold eventTasks reachTasks leadTasks
    rw [stationPlaces_eq, windowPlaces_eq, lead]
    simp only [reach]
    rfl
  · have note : motionNote s.lei l =
        if l.motion = s.lei.motion then none else some (.motion l.motion s.lei.motion l.position l.reach) := by
      unfold motionNote
      simp only [eq_comm (a := s.lei.motion)]
    unfold leiEvent
    dsimp only
    rw [note]

/-- Outside RUN and STOPPING the blocks do nothing but N_MOTION (R10, Table 51). -/
theorem leiEvent_still (reverse : Bool) (l : Lei) (s : State) (still : s.running = false) :
    leiEvent reverse l s = if l.motion = s.lei.motion then s.withLei l
      else (s.withLei l).offer (.motion l.motion s.lei.motion l.position l.reach) := by
  have idle : ∀ (note : Option NoticeBody) (ts : List Task) (u : State), u.running = false → Task.motion ∉ ts →
      ts.foldl (fun v t => Task.run note t v) u = u := by
    intro note ts
    induction ts with
    | nil => intros; rfl
    | cons t ts ih =>
      intro u hu hm
      simp only [List.mem_cons, not_or] at hm
      have : Task.run note t u = u := by
        cases t <;> first | exact absurd rfl hm.1 | (simp only [Task.run, whileRunning, hu]; rfl)
      rw [List.foldl_cons, this]
      exact ih u hu hm.2
  have one : (eventTasks reverse s (s.withLei l)).count Task.motion = 1 := by
    unfold eventTasks reachTasks leadTasks
    simp only [List.count_cons, List.count_append, List.cons_append, beq_self_eq_true, if_true]
    have : ∀ ps : List (Fin 2 × Fin 16), (ps.map fun p => Task.station p.1 p.2).count .motion = 0 := by
      intro ps; rw [List.count_eq_zero]; simp
    split
    · split
      · rw [this]; rfl
      · decide
    · split
      · rw [this]; rfl
      · decide
  unfold leiEvent
  dsimp only
  have perm := arrange_perm s.sched.tasks (eventTasks reverse s (s.withLei l))
  rw [← perm.count_eq] at one
  have hm : Task.motion ∈ arrange s.sched.tasks (eventTasks reverse s (s.withLei l)) := List.count_pos_iff.mp (by omega)
  obtain ⟨pre, post, e⟩ := List.append_of_mem hm
  rw [e, List.count_append, List.count_cons_self] at one
  have before : Task.motion ∉ pre := fun h => by have := List.count_pos_iff.mpr h; omega
  have behind : Task.motion ∉ post := fun h => by have := List.count_pos_iff.mpr h; omega
  rw [e, List.foldl_append, List.foldl_cons, idle _ pre (s.withLei l) still before]
  by_cases same : l.motion = s.lei.motion
  · have none : motionNote s.lei l = none := by unfold motionNote; rw [if_pos same.symm]
    rw [if_pos same, none]
    exact idle _ post _ still behind
  · have some : motionNote s.lei l = some (.motion l.motion s.lei.motion l.position l.reach) := by
      unfold motionNote; rw [if_neg (Ne.symm same)]
    rw [if_neg same, some]
    exact idle _ post _ (show ((s.withLei l).offer _).running = false by unfold State.running; rw [State.offer_run]; exact still) behind

/-! ### A change of one phase -/

/-- A change of one filtered phase leaves all but its level and its pin. -/
theorem togglePhase_rest (phase : Phase) (s : State) :
    (togglePhase phase s).run = s.run ∧ (togglePhase phase s).mkd = s.mkd ∧ (togglePhase phase s).partTime = s.partTime ∧
      (togglePhase phase s).lei =
        { s.lei with encA := (togglePhase phase s).lei.encA, encB := (togglePhase phase s).lei.encB } := by
  cases phase <;> exact ⟨rfl, rfl, rfl, rfl⟩

/-- A change of one filtered phase that counts (R2). -/
theorem takePhase_counts (phase : Phase) (d : Dir) (s : State) (h : s.countOf phase = some d) :
    takePhase phase s = takeCount d (togglePhase phase s) := by
  have : (togglePhase phase s).lei.cfg.decode phase (togglePhase phase s).lei.encA.level
      (togglePhase phase s).lei.encB.level = some d := by cases phase <;> exact h
  unfold takePhase
  dsimp only
  rw [this]

/-- A change of one filtered phase that does not count (R2). -/
theorem takePhase_still (phase : Phase) (s : State) (h : s.countOf phase = none) : takePhase phase s = togglePhase phase s := by
  have : (togglePhase phase s).lei.cfg.decode phase (togglePhase phase s).lei.encA.level
      (togglePhase phase s).lei.encB.level = none := by cases phase <;> exact h
  unfold takePhase
  dsimp only
  rw [this]

/-- A COUNT that counts: LEI takes the count, the blocks act on it, and the transmitter chooses (R2, R11). -/
theorem exec_count (phase : Phase) (d : Dir) (s : State) (free : s.held = false) (idle : s.detectorIdle)
    (h : s.countOf phase = some d) :
    ∃ t, exec (.count phase) s = .next (serve t) ∧
      Acts .faults ((togglePhase phase s).withLei ((togglePhase phase s).lei.count s.run.mode d s.partTime)) t ∧
      t = takeCount d (togglePhase phase s) := by
  obtain ⟨h1, h2, h3, -⟩ := togglePhase_rest phase s
  have idle' : (togglePhase phase s).detectorIdle := by unfold State.detectorIdle; rw [h1, h2]; exact idle
  refine ⟨takeCount d (togglePhase phase s), ?_, ?_, rfl⟩
  · rw [← takePhase_counts phase d s h]
    exact exec_count_high phase free
  · have a := leiEvent_acts (d == .reverse)
      ((togglePhase phase s).lei.count (togglePhase phase s).run.mode d (togglePhase phase s).partTime) _ idle'
    unfold takeCount
    rw [h1, h3] at a ⊢
    exact a

end Sys2Proof.Machine
end

