-- ==== Sys2Proof/Laws/Payloads.lean ====
section
/-! SUPPORT. A payload made from settings in range reads back as those settings, with every field in range (Table 71). -/

namespace Sys2Proof.Machine

/-- No field is out of range. -/
theorem firstBad_none {l : List Bool} (h : ∀ ok ∈ l, ok = true) : firstBad l = none := by
  unfold firstBad
  simp only [Option.map_eq_none_iff, List.findIdx?_eq_none_iff]
  intro ok hok
  simp [h ok hok]

/-! ### LINE_SET -/

theorem LineCfg.ofPayload_payload (c : LineCfg) (h : c.inRange) : LineCfg.ofPayload c.payload = c := by
  obtain ⟨mode, invert, s, filter, still, thr, limit, per, slack, fault⟩ := c
  obtain ⟨h1, h2, h3, h4, h5, h6, h7, h8, h9, h10⟩ := h
  dsimp only at *
  simp only [LineCfg.ofPayload, LineCfg.payload, be1, be2, byteAt, num2, List.cons_append, List.nil_append,
    List.getD_cons_zero, List.getD_cons_succ, BitVec.toNat_ofNat]
  congr 1
  · cases mode <;> rfl
  · cases invert <;> rfl
  all_goals first
    | omega
    | (cases fault <;> rfl)

theorem lineRanges_payload (c : LineCfg) (h : c.inRange) : firstBad (lineRanges c.payload) = none := by
  obtain ⟨mode, invert, s, filter, still, thr, limit, per, slack, fault⟩ := c
  obtain ⟨h1, h2, h3, h4, h5, h6, h7, h8, h9, h10⟩ := h
  dsimp only at *
  refine firstBad_none ?_
  have e1 : (CountMode.ofCode (mode.code % 2 ^ 8)).isSome = true := by cases mode <;> rfl
  have e2 : invert.toNat % 2 ^ 8 < 2 := by cases invert <;> decide
  have e3 : fault.toNat % 2 ^ 8 < 2 := by cases fault <;> decide
  simp only [lineRanges, LineCfg.payload, be1, be2, byteAt, num2, List.cons_append, List.nil_append, List.getD_cons_zero,
    List.getD_cons_succ, BitVec.toNat_ofNat, optionOk, List.mem_cons, List.not_mem_nil, or_false]
  rintro x (rfl | rfl | rfl | rfl | rfl | rfl | rfl | rfl | rfl | rfl) <;> simp <;> first | exact e1 | omega

/-! ### MARK_SET -/

theorem MarkCfg.ofPayload_payload (c : MarkCfg) (h : c.inRange) : MarkCfg.ofPayload c.payload = c := by
  obtain ⟨enable, input, edge, minLength, pitch, tolerance, miss, blanking⟩ := c
  obtain ⟨h1, h2, h3, h4, h5, h6⟩ := h
  dsimp only at *
  have ht : tolerance < 2 ^ 24 := by
    by_cases e : pitch = 0
    · rw [h3 e]; decide
    · have := h4 e; omega
  simp only [MarkCfg.ofPayload, MarkCfg.payload, be1, be2, be3, byteAt, num2, num3, List.cons_append, List.nil_append,
    List.getD_cons_zero, List.getD_cons_succ, BitVec.toNat_ofNat]
  congr 1
  · cases enable <;> rfl
  · fin_cases input <;> rfl
  · cases edge <;> rfl
  all_goals omega

theorem markRanges_payload (c : MarkCfg) (h : c.inRange) : firstBad (markRanges c.payload) = none := by
  obtain ⟨enable, input, edge, minLength, pitch, tolerance, miss, blanking⟩ := c
  obtain ⟨h1, h2, h3, h4, h5, h6⟩ := h
  dsimp only at *
  have ht : tolerance < 2 ^ 24 := by
    by_cases e : pitch = 0
    · rw [h3 e]; decide
    · have := h4 e; omega
  refine firstBad_none ?_
  have e2 : enable.toNat % 2 ^ 8 < 2 := by cases enable <;> decide
  have e3 : (EdgeKind.ofCode (edge.code % 2 ^ 8)).isSome = true := by cases edge <;> rfl
  have e4 : input.val % 2 ^ 8 < 4 := by omega
  simp only [markRanges, MarkCfg.payload, be1, be2, be3, byteAt, num2, num3, List.cons_append, List.nil_append,
    List.getD_cons_zero, List.getD_cons_succ, BitVec.toNat_ofNat, optionOk, toleranceOk, List.mem_cons, List.not_mem_nil,
    or_false]
  rintro x (rfl | rfl | rfl | rfl | rfl | rfl | rfl | rfl)
  · simpa using e2
  · simpa using e4
  · simpa using e3
  · rfl
  · rfl
  · split
    · have := h3 (by omega); simp [this]
    · have := h4 (by omega); simp; omega
  · simp; omega
  · rfl

/-! ### STN_WRITE -/

theorem StationDef.inRange.small {d : StationDef} (h : d.inRange) : d.length < 2 ^ 24 ∧ d.maxOn < 2 ^ 16 := by
  obtain ⟨-, -, h3, h4, -⟩ := h
  cases e : d.lengthKind
  · have := h3 e; omega
  · have := h4 e; omega

theorem StationDef.ofPayload_record (b : Fin 2) (n : Fin 16) (d : StationDef) (h : d.inRange) :
    StationDef.ofPayload (d.record b n) = d := by
  have hl := h.small
  obtain ⟨enabled, line, action, offset, kind, length, maxOn, leadTime, leadLimit, cond, window⟩ := d
  obtain ⟨h1, h2, -, -, h5, h6, -⟩ := h
  dsimp only at *
  simp only [StationDef.ofPayload, StationDef.record, be1, be2, be3, byteAt, num2, num3, List.cons_append, List.nil_append,
    List.getD_cons_zero, List.getD_cons_succ, BitVec.toNat_ofNat]
  congr 1
  · cases enabled <;> rfl
  · fin_cases line <;> rfl
  · cases action <;> rfl
  · omega
  · cases kind <;> rfl
  · omega
  · omega
  · omega
  · omega
  · cases cond <;> rfl
  · fin_cases window <;> rfl

theorem stationRanges_record (b : Fin 2) (n : Fin 16) (d : StationDef) (h : d.inRange) :
    firstBad (stationRanges (d.record b n)) = none := by
  have hl := h.small
  obtain ⟨enabled, line, action, offset, kind, length, maxOn, leadTime, leadLimit, cond, window⟩ := d
  obtain ⟨h1, h2, h3, h4, h5, h6, h7⟩ := h
  dsimp only at *
  refine firstBad_none ?_
  simp only [stationRanges, StationDef.record, be1, be2, be3, byteAt, num2, num3, List.cons_append, List.nil_append,
    List.getD_cons_zero, List.getD_cons_succ, BitVec.toNat_ofNat, optionOk, List.mem_cons, List.not_mem_nil, or_false]
  have hk : LengthKind.ofCode (kind.code % 2 ^ 8) = some kind := by cases kind <;> rfl
  have hc : Condition.ofCode (cond.code % 2 ^ 8) = some cond := by cases cond <;> rfl
  rw [hk, hc]
  rintro x (rfl | rfl | rfl | rfl | rfl | rfl | rfl | rfl | rfl | rfl | rfl | rfl | rfl)
  · simp; omega
  · simp; omega
  · cases enabled <;> rfl
  · simp; omega
  · cases action <;> rfl
  · rfl
  · rfl
  · cases kind
    · simp [lengthOk]; omega
    · have := h4 rfl; simp [lengthOk]; omega
  · cases kind
    · simp [maxOnOk]
    · have := h4 rfl; simp [maxOnOk, this.2]
  · rfl
  · simp; omega
  · rfl
  · cases cond
    all_goals first
      | (have := h7 (by decide) (by decide); subst this; rfl)
      | (simp [windowOk]; omega)

theorem StationDef.record_place (b : Fin 2) (n : Fin 16) (d : StationDef) :
    asFin 2 (byteAt (d.record b n) 0) = b ∧ asFin 16 (byteAt (d.record b n) 1) = n := by
  constructor
  · fin_cases b <;> rfl
  · fin_cases n <;> rfl

/-! ### CHK_WRITE -/

theorem WindowDef.ofPayload_record (b : Fin 2) (w : Fin 4) (d : WindowDef) (h : d.inRange) :
    WindowDef.ofPayload (d.record b w) = d := by
  obtain ⟨enabled, input, expected, start, length, rule⟩ := d
  obtain ⟨h1, h2, h3⟩ := h
  dsimp only at *
  simp only [WindowDef.ofPayload, WindowDef.record, be1, be3, byteAt, num2, num3, List.cons_append, List.nil_append,
    List.getD_cons_zero, List.getD_cons_succ, BitVec.toNat_ofNat]
  congr 1
  · cases enabled <;> rfl
  · fin_cases input <;> rfl
  · cases expected <;> rfl
  · omega
  · omega
  · cases rule <;> rfl

theorem windowRanges_record (b : Fin 2) (w : Fin 4) (d : WindowDef) (h : d.inRange) :
    firstBad (windowRanges (d.record b w)) = none := by
  obtain ⟨enabled, input, expected, start, length, rule⟩ := d
  obtain ⟨h1, h2, h3⟩ := h
  dsimp only at *
  refine firstBad_none ?_
  simp only [windowRanges, WindowDef.record, be1, be3, byteAt, num2, num3, List.cons_append, List.nil_append,
    List.getD_cons_zero, List.getD_cons_succ, BitVec.toNat_ofNat, optionOk, List.mem_cons, List.not_mem_nil, or_false]
  rintro x (rfl | rfl | rfl | rfl | rfl | rfl | rfl | rfl)
  · simp; omega
  · simp; omega
  · cases enabled <;> rfl
  · simp; omega
  · cases expected <;> rfl
  · rfl
  · simp; omega
  · cases rule <;> rfl

theorem WindowDef.record_place (b : Fin 2) (w : Fin 4) (d : WindowDef) :
    asFin 2 (byteAt (d.record b w) 0) = b ∧ asFin 4 (byteAt (d.record b w) 1) = w := by
  constructor
  · fin_cases b <;> rfl
  · fin_cases w <;> rfl

/-! ### Numbers -/

theorem num2_be2 (n : Nat) (h : n < 65536) (l : List Byte) : num2 (be2 n ++ l) 0 = n := by
  simp [num2, byteAt, be2]; omega

theorem num4_be4 (n : Nat) (h : n < 4294967296) : num4 (be4 n) 0 = n := by
  simp [num4, num3, num2, byteAt, be4]; omega

/-- The two check bytes join to the check value. -/
theorem check_bytes (w : BitVec 16) : BitVec.ofNat 8 (w.toNat / 256) ++ BitVec.ofNat 8 w.toNat = w := by
  apply BitVec.eq_of_toNat_eq
  have := w.isLt
  rw [BitVec.toNat_append]
  simp only [BitVec.toNat_ofNat]
  rw [← Nat.shiftLeft_add_eq_or_of_lt (by omega), Nat.shiftLeft_eq]
  omega

end Sys2Proof.Machine
end

