-- ==== Sys2Proof/Laws/Ranges.lean ====
section
/-! SUPPORT. The field checks of a command are the ranges of the tables of its fields: `Cmd.ranges`, which reads codes back, and
`fieldRanges`, which compares numbers, find the same lowest field out of range (R158, Table 71). -/

namespace Sys2Proof.Machine

/-! ### A field of one, two or three bytes (R168) -/

theorem fieldAt_one (p : List Byte) (i : Nat) (h : i + 1 ≤ p.length) : fieldAt p i 1 = byteAt p i := by
  unfold fieldAt byteAt
  rw [List.drop_eq_getElem_cons (by omega)]
  simp only [List.take_succ_cons, List.take_zero, List.foldl, List.getD_eq_getElem?_getD,
    List.getElem?_eq_getElem (show i < p.length by omega), Option.getD_some]
  omega

theorem fieldAt_two (p : List Byte) (i : Nat) (h : i + 2 ≤ p.length) : fieldAt p i 2 = num2 p i := by
  unfold fieldAt num2 byteAt
  rw [List.drop_eq_getElem_cons (by omega), List.drop_eq_getElem_cons (by omega)]
  simp only [List.take_succ_cons, List.take_zero, List.foldl, List.getD_eq_getElem?_getD,
    List.getElem?_eq_getElem (show i < p.length by omega), List.getElem?_eq_getElem (show i + 1 < p.length by omega),
    Option.getD_some]
  omega

theorem fieldAt_three (p : List Byte) (i : Nat) (h : i + 3 ≤ p.length) : fieldAt p i 3 = num3 p i := by
  unfold fieldAt num3 num2 byteAt
  rw [List.drop_eq_getElem_cons (by omega), List.drop_eq_getElem_cons (by omega), List.drop_eq_getElem_cons (by omega)]
  simp only [List.take_succ_cons, List.take_zero, List.foldl, List.getD_eq_getElem?_getD,
    List.getElem?_eq_getElem (show i < p.length by omega), List.getElem?_eq_getElem (show i + 1 < p.length by omega),
    List.getElem?_eq_getElem (show i + 1 + 1 < p.length by omega), Option.getD_some]
  omega

theorem byteAt_lt (p : List Byte) (i : Nat) : byteAt p i < 256 := (p.getD i 0#8).isLt

theorem num2_lt (p : List Byte) (i : Nat) : num2 p i < 65536 := by
  have := byteAt_lt p i
  have := byteAt_lt p (i + 1)
  unfold num2
  omega

theorem num3_lt (p : List Byte) (i : Nat) : num3 p i < 16777216 := by
  have := byteAt_lt p i
  have := num2_lt p (i + 1)
  unfold num3
  omega

/-! ### Which codes are codes of Table 70 -/

theorem CountMode.ofCode_isSome (n : Nat) : (CountMode.ofCode n).isSome = decide (n ≤ 2) := by
  unfold CountMode.ofCode
  split
  · rfl
  · rfl
  · rfl
  · show false = _
    rw [eq_comm, decide_eq_false_iff_not]
    grind

theorem Polarity.ofCode_isSome (n : Nat) : (Polarity.ofCode n).isSome = decide (n ≤ 1) := by
  unfold Polarity.ofCode
  split
  · rfl
  · rfl
  · show false = _
    rw [eq_comm, decide_eq_false_iff_not]
    grind

theorem EdgeKind.ofCode_isSome (n : Nat) : (EdgeKind.ofCode n).isSome = decide (n ≤ 1) := by
  unfold EdgeKind.ofCode
  split
  · rfl
  · rfl
  · show false = _
    rw [eq_comm, decide_eq_false_iff_not]
    grind

theorem Action.ofCode_isSome (n : Nat) : (Action.ofCode n).isSome = decide (n ≤ 3) := by
  unfold Action.ofCode
  split
  · rfl
  · rfl
  · rfl
  · rfl
  · show false = _
    rw [eq_comm, decide_eq_false_iff_not]
    grind

theorem LengthKind.ofCode_isSome (n : Nat) : (LengthKind.ofCode n).isSome = decide (n ≤ 1) := by
  unfold LengthKind.ofCode
  split
  · rfl
  · rfl
  · show false = _
    rw [eq_comm, decide_eq_false_iff_not]
    grind

theorem Condition.ofCode_isSome (n : Nat) : (Condition.ofCode n).isSome = decide (n ≤ 4) := by
  unfold Condition.ofCode
  split
  · rfl
  · rfl
  · rfl
  · rfl
  · rfl
  · show false = _
    rw [eq_comm, decide_eq_false_iff_not]
    grind

theorem Expected.ofCode_isSome (n : Nat) : (Expected.ofCode n).isSome = decide (n ≤ 1) := by
  unfold Expected.ofCode
  split
  · rfl
  · rfl
  · show false = _
    rw [eq_comm, decide_eq_false_iff_not]
    grind

theorem Rule.ofCode_isSome (n : Nat) : (Rule.ofCode n).isSome = decide (n ≤ 1) := by
  unfold Rule.ofCode
  split
  · rfl
  · rfl
  · show false = _
    rw [eq_comm, decide_eq_false_iff_not]
    grind

theorem Forced.ofCode_isSome (n : Nat) : (Forced.ofCode n).isSome = decide (n ≤ 2) := by
  unfold Forced.ofCode
  split
  · rfl
  · rfl
  · rfl
  · show false = _
    rw [eq_comm, decide_eq_false_iff_not]
    grind

theorem Verdict.ofCode_isSome (n : Nat) : (Verdict.ofCode n).isSome = decide (n = 1 ∨ n = 2) := by
  unfold Verdict.ofCode
  split
  · rfl
  · rfl
  · show false = _
    rw [eq_comm, decide_eq_false_iff_not]
    grind

/-! ### The ranges that depend on another field -/

theorem lengthOk_range (kind length : Nat) :
    lengthOk (LengthKind.ofCode kind) length = decide (1 ≤ length ∧ (kind = 1 → length ≤ 65535)) := by
  unfold LengthKind.ofCode lengthOk
  split <;> exact decide_eq_decide.mpr (by grind)

theorem maxOnOk_range (kind maxOn : Nat) : maxOnOk (LengthKind.ofCode kind) maxOn = decide (kind = 1 → maxOn = 0) := by
  unfold LengthKind.ofCode
  split
  · exact (decide_eq_true (by grind)).symm
  · show decide (maxOn = 0) = _
    exact decide_eq_decide.mpr (by grind)
  · exact (decide_eq_true (by grind)).symm

theorem windowOk_range (condition window : Nat) :
    windowOk (Condition.ofCode condition) window =
      decide (window ≤ 3 ∧ (condition ≠ 3 → condition ≠ 4 → window = 0)) := by
  unfold Condition.ofCode
  split
  iterate 3
    · show decide (window = 0) = _
      exact decide_eq_decide.mpr (by grind)
  iterate 2
    · show decide (window < 4) = _
      exact decide_eq_decide.mpr (by grind)
  · show decide (window = 0) = _
    exact decide_eq_decide.mpr (by grind)

theorem toleranceOk_range (pitch tolerance : Nat) :
    toleranceOk pitch tolerance = decide ((pitch = 0 → tolerance = 0) ∧ (pitch ≠ 0 → 2 * tolerance < pitch)) := by
  unfold toleranceOk
  split
  · show decide (tolerance = 0) = _
    exact decide_eq_decide.mpr (by grind)
  · exact decide_eq_decide.mpr (by grind)

theorem classAllowed_range (code cls : Nat) :
    classAllowed code cls = decide (cls ≤ 3 ∧ ((code = 0x49 ∨ code = 0x4A) → 1 ≤ cls) ∧ (code = 0x4B → cls = 3)) := by
  unfold classAllowed
  split
  · exact decide_eq_decide.mpr (by grind)
  · exact decide_eq_decide.mpr (by grind)
  · show decide (cls = 3) = _
    exact decide_eq_decide.mpr (by grind)
  · exact decide_eq_decide.mpr (by grind)

/-! ### Every command -/

/-- The lowest field out of range, by the tables of its fields. -/
theorem firstBad_ranges (c : Cmd) (p : List Byte) (h : p.length = c.length) :
    firstBad (c.ranges p) = firstBad (fieldRanges c.code p) := by
  have b := byteAt_lt p
  have n2 := num2_lt p
  have n3 := num3_lt p
  cases c <;> simp only [Cmd.length] at h <;>
    simp only [Cmd.ranges, Cmd.code, fieldRanges, reduceIte, BitVec.reduceEq]
  all_goals (
    try simp only [lineRanges, senseRanges, markRanges, stationRanges, stationReadRanges, windowRanges, windowReadRanges,
      bankParamRanges, bankRanges, forceRanges, stopRanges, tagRanges, verdictRanges, queueReadRanges, classRanges, optionOk]
    try simp only [CountMode.ofCode_isSome, Polarity.ofCode_isSome, EdgeKind.ofCode_isSome, Action.ofCode_isSome,
      LengthKind.ofCode_isSome, Condition.ofCode_isSome, Expected.ofCode_isSome, Rule.ofCode_isSome, Forced.ofCode_isSome,
      Verdict.ofCode_isSome, lengthOk_range, maxOnOk_range, windowOk_range, toleranceOk_range, classAllowed_range]
    repeat (first
      | rw [fieldAt_one _ _ (by omega)] | rw [fieldAt_two _ _ (by omega)] | rw [fieldAt_three _ _ (by omega)]))
  all_goals try (
    congr 1
    simp only [List.cons.injEq, decide_eq_decide, true_eq_decide_iff, and_true, true_and]
    grind)
  case itemTag =>
    by_cases h : num2 p 0 = 0
    · rw [h]; rfl
    · have h' : (num2 p 0 != 0) = true := bne_iff_ne.mpr h
      simp only [h, h', ne_eq, not_false_eq_true, decide_true]
      rfl
  case runStop =>
    by_cases h2 : byteAt p 0 ≤ 1
    · congr 1
      simp only [List.cons.injEq, decide_eq_decide, and_true]
      refine ⟨by omega, ?_⟩
      rw [Bool.eq_iff_iff, Bool.or_eq_true, beq_iff_eq, beq_iff_eq, decide_eq_true_eq]
      omega
    · have h3 : ¬ byteAt p 0 < 2 := by omega
      simp only [decide_eq_false h2, decide_eq_false h3]
      rfl

end Sys2Proof.Machine
end

