-- ==== Sys2Proof/Laws/Receiver.lean ====
section
/-! SUPPORT. Bytes at the receiver while no command waits and the transmitter has nothing to take. -/

namespace Sys2Proof.Machine

/-- The receiver alone acts on a byte when no command waits and an idle transmitter has nothing to take. -/
theorem exec_byte (s t : State) (v : Byte)
    (free : s.held = false)
    (h : receiveAt (s.slk.rx.line.rate.getD s.slk.rate) v (modRx (fun x => { x with line := .waitHigh }) s) = t)
    (waiting : t.slk.requests = []) (quiet : t.slk.tx = .idle → t.slk.responses = [] ∧ t.ntq.queue = []) :
    exec (.receiveByte v) s = .next t := by
  rw [exec_receiveByte_high v free]
  unfold takeByte
  rw [h]
  unfold finishLink
  dsimp only
  rw [serve_ready t quiet]
  split
  · rfl
  · unfold executeWaiting; rw [waiting]; rfl

/-- The bytes of SEQ, KIND and payload, one after another: the check bytes follow, with the check value over them (R153). -/
theorem receive_body : ∀ (bs : List Byte) (s : State) (rest : List Instr), s.held = false → s.slk.requests = [] →
    (s.slk.tx = .idle → s.slk.responses = [] ∧ s.ntq.queue = []) → s.slk.rx.phase = .body →
    s.slk.rx.left = bs.length → bs ≠ [] →
    ∃ x : Rx, x.phase = .check ∧ x.checkHigh = none ∧ x.crc = bs.foldl crcByte s.slk.rx.crc ∧
      x.body = s.slk.rx.body ++ bs ∧
      execAll (bs.map .receiveByte ++ rest) s = execAll rest (s.withSlk { s.slk with rx := x })
  | [], _, _, _, _, _, _, _, h => absurd rfl h
  | b :: bs, s, rest, free, waiting, quiet, phase, left, _ => by
    have e := exec_byte s (s.withSlk { s.slk with rx := Rx.takeBody b s.partTime { s.slk.rx with line := .waitHigh } }) b free
      (by
        unfold receiveAt
        have : (modRx (fun x => { x with line := .waitHigh }) s).slk.rx.phase = .body := phase
        rw [this]; rfl) waiting quiet
    simp only [List.map_cons, List.cons_append, execAll, e]
    cases bs with
    | nil =>
      refine ⟨Rx.takeBody b s.partTime { s.slk.rx with line := .waitHigh }, ?_, rfl, rfl, rfl, rfl⟩
      unfold Rx.takeBody
      dsimp only
      rw [left]; rfl
    | cons c bs =>
      obtain ⟨x, h1, h2, h3, h4, h5⟩ := receive_body (c :: bs)
        (s.withSlk { s.slk with rx := Rx.takeBody b s.partTime { s.slk.rx with line := .waitHigh } }) rest free waiting quiet
        (by simp only [State.withSlk_slk, Rx.takeBody, left, List.length_cons]; rw [if_neg (by omega)])
        (by simp only [State.withSlk_slk, Rx.takeBody, left, List.length_cons]; omega) (by simp)
      refine ⟨x, h1, h2, h3, ?_, h5⟩
      rw [h4]; simp [Rx.takeBody]

end Sys2Proof.Machine
end

