-- ==== Sys2Proof/Tests/Slice0.lean ====
section
/-! SUPPORT. Small tests of the model: ill-formed commands, one step of each command, and states that meet the hypotheses of each
obligation. -/

namespace Sys2Proof.Tests

open Sys2Proof.Machine

/-! ### Ill-formed commands are told apart (Table 71) -/

theorem test_wellFormed_each_length :
    [Instr.ident 1 [], .status 1 [], .linkSet 1 [0], .linkStatus 1 [0], .partReset 1 [],
     .lineSet 1 (List.replicate 13 0), .posSet 1 [0, 0, 0, 0], .senseSet 1 [0, 0, 0], .markSet 1 (List.replicate 15 0),
     .stnWrite 1 (List.replicate 21 0), .stnRead 1 [0, 0], .chkWrite 1 (List.replicate 12 0), .chkRead 1 [0, 0],
     .bankParam 1 [0, 0, 0, 0, 1], .bankCommit 1 [0], .bankCancel 1 [0], .linesSet 1 [0, 0], .outForce 1 [0, 0],
     .runStart 1 [], .runStopDrain 1 [0, 0], .runStopFlush 1 [0, 0], .faultClear 1 [], .itemTag 1 [0, 1, 0, 0, 0, 0],
     .itemVerdict 1 [0, 1, 1], .itemInject 1 [], .queueRead 1 [0, 0, 1], .noticeClass 1 [0x41, 0],
     .unknownKindCommand 1 0x7F (List.replicate 124 0)].all Instr.wellFormed = true := by decide

theorem test_illFormed_each_length :
    [Instr.ident 1 [0], .status 1 [0], .linkSet 1 [], .linkStatus 1 [0, 0], .partReset 1 [0],
     .lineSet 1 (List.replicate 12 0), .posSet 1 [0, 0, 0], .senseSet 1 [0, 0], .markSet 1 (List.replicate 16 0),
     .stnWrite 1 (List.replicate 20 0), .stnRead 1 [0], .chkWrite 1 (List.replicate 13 0), .chkRead 1 [0, 0, 0],
     .bankParam 1 [0, 0, 0, 0], .bankCommit 1 [], .bankCancel 1 [0, 0], .linesSet 1 [0], .outForce 1 [0, 0, 0],
     .runStart 1 [0], .runStopDrain 1 [0], .runStopFlush 1 [0, 0, 0], .faultClear 1 [0], .itemTag 1 [0, 1],
     .itemVerdict 1 [0, 1], .itemInject 1 [0], .queueRead 1 [0, 0], .noticeClass 1 [0x41],
     .unknownKindCommand 1 0x01 [], .unknownKindCommand 1 0x7F (List.replicate 125 0)].any Instr.wellFormed = false := by
  decide

/-- No row of the table gives bits. -/
theorem test_no_word_spells_a_command : decodeTableWord 8 1 = none ∧ State.reset.withFetchWord 8 1 = State.reset := ⟨rfl, rfl⟩

/-! ### Small states -/

/-- The state after an outcome. -/
def after (o : Answered) : State :=
  match o with
  | .next s => s
  | _ => State.reset

/-- The part after reset, its link ready. -/
def ready : State := State.reset

/-- A mode, with nothing else changed. -/
def inMode (m : Mode) (s : State) : State := s.withRun { s.run with mode := m }

/-- RUN with the detector OFF. -/
def inRun : State := (inMode .run ready).withMkd { ready.mkd with state := .off }

/-- RUN with the detector in SEARCH on input 0, with a minimum mark length. -/
def inSearch : State :=
  (inMode .run ready).withMkd { ready.mkd with state := .search, cfg := { ready.mkd.cfg with enable := true, minLength := 10 } }

/-- An item of bank 0 with an open verdict. -/
def sampleItem : Item :=
  { no := 7#16, origin := .injected, bank := 0, mark := 100#32, created := 0#32, tag := none, verdict := .none, source := .none
    closed := false, stations := Vector.replicate 16 .notUsed, windows := Vector.replicate 4 .notUsed, state := .tracking }

/-- A state with that item queued, and its bank counted. -/
def withItem (s : State) : State :=
  (s.withIq { items := [sampleItem], next := 8#16 }).modBank 0 fun k => { k with count := 1 }

/-- A state whose transmitter sends a frame with a role. -/
def sending (role : Role) (s : State) : State :=
  s.withSlk { s.slk with tx := .sending { seq := 0, kind := 0x41, payload := [] } 0 role 0 }

/-- A pulse of station 0 of bank 0 that is ON until an end target. -/
def pulsing (kind : LengthKind) (target : BitVec 32) (maxOn : Option Time) (s : State) : State :=
  s.modStationRun 0 0 fun r => { r with on := true, endKind := kind, endTarget := target, maxOn := maxOn }

theorem ready_link : ready.linkReady := ⟨rfl, rfl, rfl, by decide, fun _ => ⟨rfl, rfl⟩⟩

theorem inRun_link : inRun.linkReady := ⟨rfl, rfl, rfl, by decide, fun _ => ⟨rfl, rfl⟩⟩

theorem fresh_at_reset (seq kind : Byte) : ready.fresh seq kind := .inr fun _ h => by cases h

/-! ### One step of each event -/

theorem test_powerOnReset :
    (after (exec .powerOnReset ready)).ntq.next = 1#16 ∧ (after (exec .powerOnReset ready)).slk.tx ≠ .idle := by
  decide

theorem test_pinReset : (after (exec .pinReset inRun)).run.mode = .configure := by decide

theorem test_softReset_idle : (after (exec .softReset inRun)).run.mode = .run := by decide

theorem test_softReset : (after (exec .softReset (sending .partReset inRun))).run.mode = .configure := by decide

set_option maxRecDepth 100000 in
/-- A rises while B is low: forward, and the position moves to the next boundary (Table 10). -/
theorem test_count_forward : (after (exec (.count .a) ready)).lei.position = 16#32 := by decide

set_option maxRecDepth 100000 in
theorem test_count_reverse : (after (exec (.count .b) ready)).lei.position = 0#32 - 16#32 := by decide

theorem test_illegalTransition : (after (exec .illegalTransition inRun)).run.first = some .encoder := by decide

theorem test_illegalTransition_configure : (after (exec .illegalTransition ready)).run.mode = .configure := by decide

/-- The index check on, the last count forward, the counter beyond the slack. -/
def indexed : State :=
  inRun.withLei { inRun.lei with
    cfg := { inRun.lei.cfg with perIndex := 100, slack := 2, indexFault := true }
    lastDir := some .forward, indexRef := true, indexCount := 103 }

theorem test_indexEdge : (after (exec .indexEdge indexed)).run.first = some .indexSlip := by decide

theorem test_indexEdge_within_slack :
    (after (exec .indexEdge (indexed.withLei { indexed.lei with indexCount := 102 }))).run.mode = .run := by decide

/-- Sub-steps due at the frontier. -/
def stepping : State :=
  ready.withLei { ready.lei with subTimer := some 0, motion := .forward, valid := true, interval := 160 }

set_option maxRecDepth 100000 in
theorem test_subStep :
    (after (exec .subStep stepping)).lei.position = 1#32 ∧ (after (exec .subStep stepping)).lei.subTimer = some 10 := by decide

theorem test_subStep_not_due : (after (exec .subStep ready)).lei.position = 0#32 := by decide

/-- The standstill watch at its limit of 100 ms. -/
def still (now : Time) : State := (ready.withLei { ready.lei with standstill := some 0#32, motion := .forward }).withClock now 0

theorem test_standstill : (after (exec .standstillWatchExpiry (still 100000#32))).lei.motion = .halted := by decide

theorem test_standstill_early : (after (exec .standstillWatchExpiry (still 99999#32))).lei.motion = .forward := by decide

theorem test_senseEdge : (after (exec (.senseEdge 2) ready)).senseActive 2 = true := by decide

theorem test_senseEdge_opens_a_candidate : (after (exec (.senseEdge 0) inSearch)).mkd.candidate = some 0#32 := by decide

theorem test_fltInActivation : (after (exec .fltInActivation inRun)).run.first = some .external := by decide

theorem test_fltInRelease :
    (after (exec .fltInRelease (ready.withRun { ready.run with flt := { level := false, diff := 0 } }))).fltActive = false := by
  decide

theorem test_maxOnDeadline :
    ((after (exec (.maxOnDeadlineExpiry 0 0) (pulsing .distance 9#32 (some 0#32) inRun))).station 0 0).run.lastEnd = .deadline := by
  decide

theorem test_timePulseEnd :
    ((after (exec (.timePulseEnd 0 0) (pulsing .time 0#32 none inRun))).station 0 0).run.lastEnd = .target := by decide

/-- STOPPING with a queued item and its drain deadline reached. -/
def draining : State := (withItem (inMode .stopping ready)).withRun { ready.run with mode := .stopping, drain := some 0#32 }

theorem test_drainDeadline :
    (after (exec .drainDeadlineExpiry draining)).run.mode = .configure ∧
      (after (exec .drainDeadlineExpiry draining)).iq.items = [] := by decide +kernel

theorem test_receiveByte : (after (exec (.receiveByte 0x5A) ready)).slk.rx.phase = .length := by decide

/-- The example of R150: the check value over "123456789". -/
theorem test_crc : crc16 [0x31, 0x32, 0x33, 0x34, 0x35, 0x36, 0x37, 0x38, 0x39] = 0x29B1#16 := by decide +kernel

/-- A receiver in the body of a frame whose last byte ended at part time 0, its byte receiver in a state, at a part time. -/
def gapped (line : RxLine) (now : Time) : State :=
  (ready.withSlk { ready.slk with rx := { ready.slk.rx with phase := .body, gapFrom := some 0#32, line := line } }).withClock now 0

/-- A receiver waiting for more bytes, at a part time. -/
def waitingByte (now : Time) : State := gapped .waitHigh now

/-- A start bit at the tick at which the gap watch falls due, the watch being taken first or not. -/
def gapAtStart (first : Bool) : State :=
  { gapped (.receiving 0 0 []) 2000#32 with sched := { Sched.canonical with gapFirst := first } }

theorem test_gapWatch : (after (exec .gapWatchExpiry (waitingByte 2000#32))).slk.gapErrors = 1 := by decide

theorem test_gapWatch_early : (after (exec .gapWatchExpiry (waitingByte 1999#32))).slk.gapErrors = 0 := by decide

theorem test_gapWatch_at_a_start_bit :
    (after (exec .gapWatchExpiry (gapAtStart true))).slk.gapErrors = 1 ∧
      (after (exec .gapWatchExpiry (gapAtStart false))).slk.gapErrors = 0 := by decide

/-- At 2,000,000 baud a bit lasts 16 fine ticks: a low level is a start bit, and the byte is taken in its stop bit, 152 ticks on. -/
theorem test_receive_bits :
    RxLine.ready.sample 5 false = (.receiving 5 0 [], none) ∧
      (RxLine.receiving 5 150 (List.replicate 8 true)).sample 5 true = (.receiving 5 151 (List.replicate 8 true), none) ∧
      (RxLine.receiving 5 151 [true, false, true, false, false, false, false, false]).sample 5 true = (.sampled 5, some 0x05#8) ∧
      RxLine.waitHigh.sample 5 false = (.waitHigh, none) := by decide

/-- TXD rests high; the start bit of a frame is low, and bit 1 of SYNC, 5AH, is high. -/
theorem test_txd :
    ready.txd = true ∧ (sending .plain ready).txd = false ∧
      (let s := sending .plain ready
       (s.withSlk { s.slk with tx := .sending { seq := 0, kind := 0x41, payload := [] } 5 .plain 32 }).txd = true) ∧
      (let s := sending .plain ready; (s.withPins { s.pins with resetn := false }).txd = true) := by decide +kernel

/-- A part after reset whose first sample shows other levels than the pins did: the levels are taken, and no edge is seen. -/
theorem test_first_sample :
    let high := { ready.pins with encA := true, encZ := true, sn := Vector.replicate 4 true, fltIn := false }
    let t := after (step (ready.withSamples [high]))
    t.pending = [] ∧ t.lei.encA = { level := true, diff := 0 } ∧ t.lei.encB = { level := false, diff := 0 } ∧
      t.senseActive 3 = true ∧ t.fltActive = true := by decide +kernel

/-- The PART_RESET response at its last bit, and a change of an unfiltered sense input at the same tick. -/
def resetting (events : List Nat) : State :=
  let s := inRun.withSns (inRun.sns.set 0 { inRun.sns[0] with filt := { level := true, diff := 0 } })
  { s.withSlk { s.slk with tx := .sending { seq := 0, kind := 0x85, payload := [0, 0, 0] } 5 .partReset 1439 } with
    sched := { Sched.canonical with events := events } }

/-- A soft reset at a tick: an event of that tick is taken before it or not at all. -/
theorem test_soft_reset_ends_its_tick :
    (after (step (resetting []))).pending = [.senseEdge 0, .softReset] ∧
      (after (step (resetting [1]))).pending = [.softReset] := by decide +kernel

/-- The part with RESETN low. -/
def lowReset : State := ready.withPins { ready.pins with resetn := false }

/-- While RESETN is low a tick holds the part, and when it is high again PIN_RESET follows. -/
theorem test_resetn :
    (after (step (inRun.withSamples [lowReset.pins]))).run.mode = .configure ∧
      (after (step (inRun.withSamples [lowReset.pins]))).pending = [] ∧
      (after (step (lowReset.withSamples [ready.pins]))).pending = [.pinReset] ∧
      (after (exec (.partReset 1 []) lowReset)).slk.tx = .idle := by decide +kernel

theorem test_transmitEnd : (after (exec .transmitEnd (sending .plain ready))).slk.tx = .idle := by decide

theorem test_linkRateChange :
    (after (exec .linkRateChange (sending (.rateChange 3) ready))).slk.rate = 3 ∧
      (after (exec .linkRateChange (sending (.rateChange 3) ready))).slk.oldRate = some 0 := by decide

/-- A trial whose deadline is at a part time. -/
def inTrial (deadline : Time) : State :=
  ready.withSlk { ready.slk with link := .trial, trialDeadline := some deadline, oldRate := some 0, rate := 3 }

theorem test_trialDeadline : (after (exec .trialDeadlineExpiry (inTrial 0#32))).slk.rate = 0 := by decide

/-! ### One step of each link command -/

/-- The status and detail of the response that the transmitter has just taken. -/
def sent (s : State) : List Byte :=
  match s.slk.tx with
  | .idle => []
  | .sending f _ _ _ => f.payload.take 3

/-- A command to the part after reset. -/
def told (i : Instr) : List Byte := sent (after (exec i ready))

/-- A command to the part in RUN. -/
def toldInRun (i : Instr) : List Byte := sent (after (exec i inRun))

theorem test_queries :
    told (.ident 1 []) = [0, 0, 0] ∧ told (.status 1 []) = [0, 0, 0] ∧ told (.linkStatus 1 [1]) = [0, 0, 0] ∧
      told (.stnRead 1 [1, 15]) = [0, 0, 0] ∧ told (.chkRead 1 [1, 3]) = [0, 0, 0] ∧ told (.queueRead 1 [0, 0, 4]) = [0, 0, 0] := by
  decide

theorem test_link_commands :
    told (.linkSet 1 [3]) = [0, 0, 0] ∧ told (.linkSet 1 [0]) = [0x0D, 0, 0] ∧ told (.linkSet 1 [6]) = [3, 0, 1] ∧
      told (.partReset 1 []) = [0, 0, 0] ∧ told (.noticeClass 1 [0x4B, 3]) = [0, 0, 0] ∧
      told (.noticeClass 1 [0x4B, 2]) = [3, 0, 2] := by decide

theorem test_settings :
    told (.lineSet 1 [2, 0, 4, 4, 0, 100, 4, 16, 0, 0, 0, 0, 0]) = [0, 0, 0] ∧ told (.posSet 1 [0, 0, 1, 0]) = [0, 0, 0] ∧
      told (.senseSet 1 [3, 1, 255]) = [0, 0, 0] ∧ told (.markSet 1 [1, 0, 0, 0, 0, 0, 0, 9, 0, 0, 4, 0, 0, 0, 0]) = [0, 0, 0] ∧
      told (.markSet 1 [1, 0, 0, 0, 0, 0, 0, 8, 0, 0, 4, 0, 0, 0, 0]) = [3, 0, 6] ∧
      told (.linesSet 1 [0x80, 1]) = [0, 0, 0] ∧ told (.outForce 1 [15, 2]) = [0, 0, 0] := by decide

theorem test_settings_in_run :
    toldInRun (.lineSet 1 (List.replicate 13 0)) = [4, 0, 1] ∧ toldInRun (.posSet 1 [0, 0, 1, 0]) = [4, 0, 1] := by decide

theorem test_banks :
    told (.bankParam 1 [1, 0, 0, 9, 2]) = [0, 0, 0] ∧ told (.bankCommit 1 [1]) = [0, 0, 0] ∧
      told (.bankCommit 1 [0]) = [0x0D, 0, 0] ∧ told (.bankCancel 1 [0]) = [0x0D, 0, 0] ∧
      toldInRun (.bankParam 1 [0, 0, 0, 9, 2]) = [6, 0, 0] ∧ toldInRun (.bankCommit 1 [1]) = [0, 0, 0] := by decide

theorem test_records :
    told (.stnWrite 1 [0, 15, 1, 3, 0, 0, 1, 0, 1, 0, 0, 9, 0, 0, 0, 0, 0, 0, 0, 0, 0]) = [0, 0, 0] ∧
      told (.stnWrite 1 [0, 15, 1, 3, 0, 0, 1, 0, 1, 1, 0, 0, 0, 0, 0, 0, 0, 0, 0, 0, 0]) = [3, 0, 8] ∧
      told (.chkWrite 1 [1, 3, 1, 2, 1, 0, 0, 0, 0, 0, 1, 1]) = [0, 0, 0] := by decide

theorem test_run_control :
    told (.runStart 1 []) = [0, 0, 0] ∧ toldInRun (.runStopDrain 1 [0, 0]) = [0, 0, 0] ∧
      toldInRun (.runStopFlush 1 [0, 0]) = [0, 0, 0] ∧ toldInRun (.runStopFlush 1 [0, 1]) = [3, 0, 2] ∧
      sent (after (exec (.faultClear 1 []) (inMode .fault ready))) = [0, 0, 0] ∧ told (.faultClear 1 []) = [4, 0, 0] := by decide

theorem test_items :
    sent (after (exec (.itemTag 1 [0, 7, 0, 0, 0, 9]) (withItem inRun))) = [0, 0, 0] ∧
      sent (after (exec (.itemVerdict 1 [0, 7, 2]) (withItem inRun))) = [0, 0, 0] ∧
      toldInRun (.itemTag 1 [0, 7, 0, 0, 0, 9]) = [8, 0, 0] ∧ toldInRun (.itemInject 1 []) = [0, 0, 0] ∧
      told (.itemInject 1 []) = [4, 0, 0] := by decide

theorem test_unknown_kind :
    told (.unknownKindCommand 1 0x7F []) = [2, 0, 0] ∧ told (.ident 1 [0]) = [1, 0, 0] := by decide

/-- Codes beyond the last, and the code of NONE for a verdict, are out of range (Table 70). -/
theorem test_codes_out_of_range :
    told (.outForce 1 [15, 3]) = [3, 0, 2] ∧ told (.bankParam 1 [1, 0, 0, 9, 0]) = [3, 0, 3] ∧
      told (.bankParam 1 [1, 0, 0, 9, 3]) = [3, 0, 3] ∧ toldInRun (.itemVerdict 1 [0, 7, 0]) = [3, 0, 2] ∧
      told (.senseSet 1 [0, 2, 0]) = [3, 0, 2] ∧ told (.lineSet 1 [3, 0, 4, 4, 0, 100, 4, 16, 0, 0, 0, 0, 0]) = [3, 0, 1] := by
  decide

/-- A settled item leaves the queue at its creation: an injected item with close distance 0 and no stations. -/
theorem test_inject_settles :
    (after (exec (.itemInject 1 []) inRun)).iq.items = [] ∧ (after (exec (.itemInject 1 []) inRun)).iq.next = 2#16 := by
  decide

/-- A step on an empty queue is one fine tick. -/
theorem test_idle_step : (after (step State.reset)).fine = 1 := by decide

/-! ### States that meet the hypotheses of the statements

One theorem per obligation that has hypotheses, a part for each clause, at boundary values where a clause has a range. -/

/-- A link that is ready, and not a repeat whatever SEQ and KIND are. -/
def Open (s : State) : Prop := s.linkReady ∧ ∀ seq kind, s.fresh seq kind

theorem open_of {s : State} (resetn : s.pins.resetn = true) (requests : s.slk.requests = []) (pause : s.slk.pause = .running)
    (responses : s.slk.responses = []) (notices : s.ntq.queue = []) (cache : s.slk.cache = none) : Open s :=
  ⟨⟨resetn, requests, pause, by rw [responses]; decide, fun _ => ⟨responses, notices⟩⟩,
    fun _ _ => .inr fun c h => by rw [cache] at h; cases h⟩

theorem open_ready : Open ready := open_of rfl rfl rfl rfl rfl rfl

theorem open_inMode (m : Mode) : Open (inMode m ready) := open_of rfl rfl rfl rfl rfl rfl

theorem open_inRun : Open inRun := open_of rfl rfl rfl rfl rfl rfl

/-- The hypotheses that ask of a command only that the link be ready and the command no repeat, at any SEQ and KIND; and a
command that is no repeat beside a cache that holds another. -/
theorem meets_linkReady_and_fresh :
    Open ready ∧ ∃ s : State, s.linkReady ∧ s.fresh 1 0x02 ∧ s.slk.cache ≠ none :=
  ⟨open_ready, ready.withSlk { ready.slk with cache := some { seq := 1, kind := 1, reply := (Answer.plain .ok 0 []).reply } },
    ⟨rfl, rfl, rfl, by decide, fun _ => ⟨rfl, rfl⟩⟩, .inr fun c h hc => by cases h; decide, by decide⟩

theorem meets_StepRunsFrontCommand : (ready.withPending [.powerOnReset]).pending = .powerOnReset :: [] := rfl

/-- A request that waits with the transmitter idle. -/
def waiting : State := ready.withSlk { ready.slk with requests := [⟨1, 0x01, []⟩] }

theorem meets_EmptyQueueStepIsOneFineTick :
    (waiting.pending = [] ∧ waiting.pins.resetn = true ∧ waiting.canExecute = true) ∧
      (ready.pending = [] ∧ ready.pins.resetn = true ∧ ready.canExecute = false ∧
        (ready.samples.headD ready.pins).resetn = true) ∧
      (ready.withClock 0#32 31).fine + 1 = 32 ∧
      (let t := after (step (stepping.withLei { stepping.lei with subTimer := some 1 }))
       t.lei.subStepDue t.run.mode = true) ∧
      (let t := after (step ((still 99999#32).withClock 99999#32 31)); t.lei.standstillDue t.partTime = true) ∧
      (after (step (pulsing .distance 9#32 (some 0#32) inRun))).maxOnDue 0 0 = true ∧
      (after (step (pulsing .time 0#32 none inRun))).timeEndDue 0 0 = true ∧
      (let t := after (step draining); t.run.mode = .stopping ∧ t.run.drain = some 0#32) ∧
      (let t := after (step ((waitingByte 1999#32).withClock 1999#32 31)); t.gapDue = true) ∧
      (let t := after (step (inTrial 0#32)); t.slk.link = .trial ∧ t.slk.trialDeadline = some 0#32) ∧
      (ready.lei.encA.unsampled = true ∧ (after (step ready)).lei.encA.unsampled = false ∧
        (after (step ready)).run.flt.unsampled = false) ∧
      ((resetting []).pending = [] ∧ (resetting []).pins.resetn = true ∧ (resetting []).canExecute = false ∧
        ((resetting []).samples.headD (resetting []).pins).resetn = true ∧
        10 * (3 + 6) ≤ bitsIn 5 1440) := by
  decide +kernel

theorem meets_EveryCommandHasANextState : ready.detectorIdle ∧ inSearch.detectorIdle := by
  unfold State.detectorIdle; decide

theorem meets_FilterTakesALevelThatHasLasted :
    (∃ f : Filt, f.unsampled = false ∧ true ≠ f.level ∧ f.diff ≤ 0 ∧ 0 ≤ 0 - f.diff) ∧
      (∃ f : Filt, f.unsampled = false ∧ true ≠ f.level ∧ f.diff ≤ 15 ∧ 15 ≤ 15 - f.diff) ∧
      (∃ f : Filt, f.unsampled = false ∧ true ≠ f.level ∧ f.diff ≤ 15 ∧ f.diff = 15 ∧ 0 ≤ 15 - f.diff) ∧
      (∃ f : Filt, f.unsampled = false ∧ true = f.level) ∧ (Filt.atReset true).unsampled = true :=
  ⟨⟨.ofSample false, by decide⟩, ⟨.ofSample false, by decide⟩, ⟨⟨false, 15, false⟩, by decide⟩, ⟨.ofSample true, rfl, rfl⟩, rfl⟩

/-- The part with RESETN low meets the conditions of a part that is held. -/
theorem lowReset_inReset : lowReset.inReset := by
  refine ⟨⟨rfl, rfl, rfl, rfl, rfl, rfl, rfl, rfl, rfl, rfl, rfl, rfl, rfl, rfl, rfl, rfl, rfl, rfl, rfl, by decide⟩,
    ⟨rfl, rfl, rfl, rfl, rfl, rfl, rfl, rfl, by decide +kernel, by decide +kernel, by decide, by decide, rfl, rfl⟩, ?_, rfl, rfl,
    by decide, rfl⟩
  unfold State.linkCleared
  decide

/-- With lowReset_inReset. -/
theorem meets_ResetsGiveTheResetState :
    ((sending .partReset inRun).pins.resetn = true ∧
      (sending .partReset inRun).slk.tx = .sending { seq := 0, kind := 0x41, payload := [] } 0 .partReset 0) ∧
      (let s := inRun.withSamples [lowReset.pins]
       s.pending = [] ∧ s.canExecute = false ∧ (s.samples.headD s.pins).resetn = false) ∧
      (let s := lowReset.withSamples [ready.pins]
       s.pending = [] ∧ s.pins.resetn = false ∧ (s.samples.headD s.pins).resetn = true) ∧
      (Instr.count .a ≠ .powerOnReset ∧ Instr.count .a ≠ .pinReset) ∧
      lowReset.detectorIdle ∧ (after (step lowReset)).pins.resetn = false := by
  unfold State.detectorIdle
  decide +kernel

/-- Two-state decoding only. -/
def countingX1 : State := ready.withLei { ready.lei with cfg := { ready.lei.cfg with countMode := .x1 } }

theorem meets_CountDirectionFollowsTables10And11 :
    countingX1.pins.resetn = true ∧ countingX1.countOf .b = none ∧
      (countingX1.withLei { countingX1.lei with encB := { level := true, diff := 0 }, encA := { level := true, diff := 0 },
                                                cfg := { countingX1.lei.cfg with invert := true } }).countOf .b = none ∧
      (countingX1.withLei { countingX1.lei with encB := { level := true, diff := 0 } }).countOf .a = some .reverse ∧
      (countingX1.withLei { countingX1.lei with encA := { level := true, diff := 0 }, encB := { level := true, diff := 0 } }).countOf .a
        = none := by decide

/-- The position at its last value before it wraps, in a mode. -/
def atTheEnd (m : Mode) : State :=
  inMode m (ready.withLei { ready.lei with countReg := 2 ^ 28 - 1, sub := 15, reach := 0xFFFFFFFF#32 })

theorem meets_CountMovesPositionToTheNextBoundary :
    (∀ m ∈ [Mode.configure, .run, .stopping, .fault],
      (atTheEnd m).pins.resetn = true ∧ (atTheEnd m).positionSound ∧ (atTheEnd m).detectorIdle ∧ (atTheEnd m).countOf .a = some .forward ∧
        (atTheEnd m).countOf .b = some .reverse) ∧
      ready.positionSound ∧ ready.countOf .a = some .forward ∧ ready.countOf .b = some .reverse ∧
      (after (exec (.count .a) (atTheEnd .run))).run.mode ≠ .configure ∧
      (after (exec (.count .a) ready)).run.mode = .configure ∧
      (after (exec (.count .a) (atTheEnd .fault))).run.mode = .fault ∧
      (let s := ready.withLei { ready.lei with
         motion := .forward, sameDir := some { dir := .forward, measured := 1 }, sinceCount := 160 }
       s.positionSound ∧ s.detectorIdle ∧ s.countOf .a = some .forward ∧
         (after (exec (.count .a) s)).lei.subTimer = some 10) := by
  unfold State.positionSound State.detectorIdle; decide +kernel

/-- A forward run that has been measured twice, the index check on. -/
def measured : State :=
  ready.withLei { ready.lei with
    cfg := { ready.lei.cfg with perIndex := 65535 }, sameDir := some { dir := .forward, measured := 2 }, sinceCount := 16777215
    indexCount := 131071 }

theorem meets_CountMeasuresTheInterval :
    (measured.pins.resetn = true ∧ measured.detectorIdle ∧ measured.countOf .a = some .forward ∧
      measured.lei.sameDir = some { dir := .forward, measured := 2 } ∧ measured.lei.cfg.perIndex ≠ 0) ∧
      (measured.countOf .b = some .reverse ∧ ∀ r, measured.lei.sameDir = some r → r.dir ≠ .reverse) ∧
      (ready.pins.resetn = true ∧ ready.detectorIdle ∧ ready.countOf .a = some .forward ∧ ready.lei.sameDir = none ∧
        ready.lei.cfg.perIndex = 0) :=
  ⟨⟨rfl, by unfold State.detectorIdle; decide, rfl, rfl, by decide⟩,
    ⟨rfl, fun r h => by cases h; decide⟩, rfl, by unfold State.detectorIdle; decide, rfl, rfl, rfl⟩

theorem meets_CountTracksTheMotionState :
    ∀ m ∈ [Motion.halted, .forward, .reverse],
      let s := ready.withLei { ready.lei with motion := m }
      s.pins.resetn = true ∧ s.detectorIdle ∧ s.countOf .a = some .forward ∧ s.countOf .b = some .reverse ∧
        s.running = false := by
  unfold State.detectorIdle; decide

/-- RUN with the reach a distance ahead of the position; a reverse count then makes it 16 lu more. -/
def behind (ahead : Pos) : State := inRun.withLei { inRun.lei with reach := ahead }

theorem meets_ReverseLimitIsTestedAtReverseCounts :
    (∀ m ∈ [Mode.run, .stopping], ∀ d ∈ [(0xFFEF, false), (0xFFF0, true)],
      let s := (inMode m (behind (BitVec.ofNat 32 d.1))).withMkd { ready.mkd with state := .idle }
      let p := s.lei.position - BitVec.ofNat 32 (2 ^ s.lei.cfg.s + s.lei.sub)
      s.pins.resetn = true ∧ s.positionSound ∧ s.running = true ∧ s.detectorIdle ∧ s.countOf .b = some .reverse ∧
        atOrBeyond p s.lei.reach = false ∧
        atOrBeyond s.lei.reach (p + BitVec.ofNat 32 (s.lei.cfg.revLimit * 2 ^ s.lei.cfg.s)) = d.2) ∧
      ready.running = false := by
  unfold State.positionSound State.detectorIdle; decide +kernel

theorem meets_IllegalTransitionEndsTheRunOrReports :
    ready.pins.resetn = true ∧ inRun.pins.resetn = true ∧ ready.running = false ∧ (inMode .fault ready).running = false ∧
      inRun.running = true ∧ (inMode .stopping ready).running = true := by decide

theorem meets_IndexEdgeComparesAndRestarts :
    (ready.pins.resetn = true ∧ ready.lei.cfg.perIndex = 0) ∧ indexed.pins.resetn = true ∧
      (indexed.lei.cfg.perIndex ≠ 0 ∧ indexed.lei.lastDir = some .forward ∧ indexed.lei.indexRef = true ∧
        indexed.lei.indexCount = indexed.lei.cfg.perIndex + indexed.lei.cfg.slack + 1 ∧
        indexed.lei.cfg.indexFault = true ∧ indexed.running = true) ∧
      (inMode .configure indexed).running = false ∧
      ∀ n ∈ [98, 102], let l := { indexed.lei with indexCount := n }
        l.indexCount ≤ l.cfg.perIndex + l.cfg.slack ∧ l.cfg.perIndex ≤ l.indexCount + l.cfg.slack := by decide

theorem meets_SubStepAddsOneLineUnit :
    (∀ sub ∈ [0, 14, 15],
      let s := stepping.withLei { stepping.lei with sub := sub, reach := BitVec.ofNat 32 sub }
      s.pins.resetn = true ∧ s.positionSound ∧ s.detectorIdle ∧ s.lei.subTimer = some 0 ∧ s.lei.motion = .forward ∧ s.lei.valid = true ∧
        s.lei.position = s.lei.reach ∧ (s.lei.sub + 1 < 2 ^ s.lei.cfg.s ↔ sub ≠ 15) ∧
        (s.lei.sub + 2 < 2 ^ s.lei.cfg.s ↔ sub = 0) ∧ s.run.mode ≠ .fault) ∧
      (ready.pins.resetn = true ∧ ready.positionSound ∧ ready.detectorIdle ∧ ready.lei.subTimer ≠ some 0 ∧ ready.lei.motion ≠ .forward ∧
        ready.lei.valid = false) ∧
      ((behind 16#32).lei.position ≠ (behind 16#32).lei.reach ∧ (behind 16#32).positionSound ∧ (behind 16#32).detectorIdle) ∧
      ((inMode .fault stepping).positionSound ∧ (inMode .fault stepping).detectorIdle) := by
  unfold State.positionSound State.detectorIdle
  refine ⟨?_, ?_, ?_, ?_⟩ <;> decide +kernel

theorem meets_StandstillHaltsTheLine :
    (∀ p ∈ [(99999, false), (100000, true)], let s := still (BitVec.ofNat 32 p.1)
      s.pins.resetn = true ∧ s.detectorIdle ∧ s.running = false ∧ s.lei.standstill = some 0#32 ∧
        decide (s.lei.cfg.standstillMs * 1000 ≤ (s.partTime - 0#32).toNat) = p.2) ∧
      ready.pins.resetn = true ∧ ready.detectorIdle ∧ ready.lei.standstill = none := by
  unfold State.detectorIdle; decide +kernel

theorem meets_SenseEdgeChangesOneInput :
    (ready.pins.resetn = true ∧ ready.detectorIdle ∧ ready.running = false) ∧
      (inSearch.pins.resetn = true ∧ inSearch.detectorIdle ∧ inSearch.running = true) := by
  unfold State.detectorIdle; decide

/-- SEARCH with a candidate on input 0, which is at its active level. -/
def candidateOpen : State :=
  (inSearch.withMkd { inSearch.mkd with candidate := some 0#32 }).withSns
    (inSearch.sns.set 0 { inSearch.sns[0] with filt := { level := true, diff := 0 } })

theorem meets_MarkEdgeOpensACandidate :
    (inSearch.pins.resetn = true ∧ candidateOpen.pins.resetn = true ∧ inSearch.mkd.state = .search ∧
       inSearch.mkd.cfg.input = 0 ∧ inSearch.mkd.cfg.minLength ≠ 0 ∧
      (∀ b w, (inSearch.window b w).run.opened = false) ∧ inSearch.mkd.cfg.edge = .rising ∧
      inSearch.senseActive 0 = false ∧ inSearch.mkd.candidate = none ∧ inSearch.lei.position = inSearch.lei.reach) ∧
      (let s := inSearch.withLei { inSearch.lei with reach := 1#32 }; s.lei.position ≠ s.lei.reach) ∧
      (candidateOpen.mkd.candidate = some 0#32 ∧ candidateOpen.mkd.deferred = false ∧ candidateOpen.senseActive 0 = true ∧
        ∀ b w, (candidateOpen.window b w).run.opened = false) ∧
      (let s := candidateOpen.withSns inSearch.sns; s.senseActive 0 = false ∧ s.mkd.candidate ≠ none) ∧
      (let s := candidateOpen.withMkd inSearch.mkd; s.senseActive 0 = true ∧ s.mkd.candidate = none) ∧
      (let c := { inSearch.mkd.cfg with edge := EdgeKind.falling }
       let s := candidateOpen.withMkd { inSearch.mkd with cfg := c }
       s.mkd.cfg.edge = .falling ∧ s.senseActive 0 = true ∧ s.mkd.candidate = none) := by decide

theorem meets_FltInActsByTheMode :
    (∀ m ∈ [Mode.configure, .run, .stopping, .fault],
      (inMode m ready).pins.resetn = true ∧ (inMode m ready).run.flt.level = true) ∧
      (inMode .stopping ready).running = true ∧
      (ready.withRun { ready.run with flt := { level := false, diff := 0 } }).run.flt.level = false := by decide

theorem meets_MaxOnDeadlineEndsThePulse :
    let s := pulsing .distance 9#32 (some 5#32) (inRun.withClock 5#32 0)
    s.pins.resetn = true ∧ (s.station 0 0).run.on = true ∧ (s.station 0 0).run.maxOn = some 5#32 ∧
      atOrBeyond s.partTime 5#32 = true := by decide

theorem meets_TimePulseEndsAtItsEndTarget :
    let s := pulsing .time 5#32 none (inRun.withClock 5#32 0)
    s.pins.resetn = true ∧ (s.station 0 0).run.on = true ∧ (s.station 0 0).run.endKind = .time ∧
      atOrBeyond s.partTime (s.station 0 0).run.endTarget = true := by decide

theorem meets_DrainDeadlineFlushesTheQueue :
    draining.pins.resetn = true ∧ draining.banksLegal ∧ draining.run.mode = .stopping ∧ draining.run.drain = some 0#32 ∧
      atOrBeyond draining.partTime 0#32 = true ∧ draining.iq.items ≠ [] := by
  unfold State.banksLegal; decide +kernel

/-- A receiver in a phase, its body bytes to come and its first check byte. -/
def receiving (phase : RxPhase) (left : Nat) (high : Option Byte) : State :=
  ready.withSlk { ready.slk with rx := { ready.slk.rx with phase := phase, left := left, checkHigh := high } }

theorem meets_ReceiverTakesEachByte :
    (∀ s ∈ [receiving .hunt 0 none, receiving .length 0 none, receiving .body 2 none, receiving .body 1 none,
            receiving .check 0 none, receiving .check 0 (some 0xFF)],
      s.pins.resetn = true ∧ s.slk.requests = [] ∧ s.slk.tx = .idle ∧ s.slk.responses = [] ∧ s.ntq.queue = []) ∧
      (2 ≤ (2#8).toNat ∧ (126#8).toNat ≤ 126 ∧ (1#8).toNat < 2 ∧ 126 < (127#8).toNat) ∧
      0xFF#8 ++ 0x00#8 ≠ (receiving .check 0 (some 0xFF)).slk.rx.crc ∧
      (∀ p ∈ [(LinkState.trial, 3, 3), (.trial, 3, 0), (.steady, 0, 0)],
        let c := receiving .check 0 (some 0xFF)
        let s := c.withSlk { c.slk with link := p.1, rate := p.2.1, rx := { c.slk.rx with syncRate := p.2.2, body := [1, 1] } }
        s.pins.resetn = true ∧ s.slk.requests = [] ∧ s.slk.tx = .idle ∧ s.slk.responses = [] ∧ s.ntq.queue = [] ∧
          s.slk.rx.phase = .check ∧ s.slk.rx.checkHigh = some 0xFF ∧ 0xFF#8 ++ 0xFF#8 = s.slk.rx.crc ∧
          s.slk.rx.body = 1#8 :: 1#8 :: [] ∧ s.slk.link = p.1 ∧ s.slk.rate = p.2.1 ∧ s.slk.rx.syncRate = p.2.2) ∧
      (∀ n ∈ [0, 7, 8], ∀ k ∈ [((2 * n + 3) * 32000000 / 4000000 - 2, true), ((2 * n + 3) * 32000000 / 4000000 - 1, false)],
        decide (k.1 + 1 < (2 * (List.replicate n true).length + 3) * 32000000 / (2 * 2000000)) = k.2) := by decide

theorem meets_FrameReceivedIsFrameSent :
    (List.replicate 124 0xFF#8).length ≤ 124 ∧ ready.pins.resetn = true ∧ ready.slk.requests = [] ∧
      ready.slk.tx = .idle ∧ ready.slk.responses = [] ∧
      ready.ntq.queue = [] ∧ ready.slk.rx.phase = .hunt ∧ ready.slk.link = .steady ∧ lowReset.pins.resetn = false ∧
      (let s := inTrial 9#32
       s.pins.resetn = true ∧ s.slk.requests = [] ∧ s.slk.tx = .idle ∧ s.slk.responses = [] ∧ s.ntq.queue = [] ∧
         s.slk.rx.phase = .hunt ∧ s.slk.rx.line = .waitHigh ∧ s.slk.link = .trial) ∧
      (let f : Frame := { seq := 0, kind := 0x41, payload := [] }
       (sending .plain ready).pins.resetn = true ∧ (sending .plain ready).slk.tx = .sending f 0 .plain 0 ∧
        (∀ k ∈ [0, 9, 10, 59, 60], decide (k / 10 < f.bytes.length) = decide (k < 60)) ∧
        f.bytes = [] ++ 0x5A#8 :: f.bytes.drop 1 ∧ f.bytes.length ≤ 60 / 10) := by decide +kernel

/-- A queued notice of a class. -/
def noticeOf (cls : Nat) : Notice := { number := 0, cls := cls, time := 0, body := .link 0 0 }

/-- A response to SEQ 1, IDENT. -/
def responded : Response := { seq := 1, kind := 1, reply := (Answer.plain .ok 0 []).reply, role := .plain }

theorem meets_TransmitterChoice :
    (sending .plain ready).slk.tx ≠ .idle ∧
      (let s := ready.withSlk { ready.slk with responses := [responded] }; s.slk.tx = .idle ∧ s.slk.responses = [responded]) ∧
      (let s := ready.withNtq { ready.ntq with queue := [noticeOf 1] ++ noticeOf 2 :: [noticeOf 2] }
       s.slk.tx = .idle ∧ s.slk.responses = [] ∧ s.slk.pause ≠ .softReset ∧ (∀ m ∈ [noticeOf 1], m.cls < (noticeOf 2).cls) ∧
        ∀ m ∈ [noticeOf 2], m.cls ≤ (noticeOf 2).cls) ∧
      (ready.slk.tx = .idle ∧ ready.slk.responses = [] ∧ ready.ntq.queue = []) ∧
      (let s := (ready.withSlk { ready.slk with pause := .softReset }).withNtq { ready.ntq with queue := [noticeOf 1] }
       s.slk.tx = .idle ∧ s.slk.responses = [] ∧ s.slk.pause = .softReset) := by decide

theorem meets_FrameEndFreesTheTransmitter :
    (sending .plain ready).pins.resetn = true ∧ (sending .plain ready).slk.requests = [] ∧
      (sending .plain ready).slk.tx = .sending { seq := 0, kind := 0x41, payload := [] } 0 .plain 0 ∧
      (sending (.rateChange 5) ready).slk.tx = .sending { seq := 0, kind := 0x41, payload := [] } 0 (.rateChange 5) 0 := by
  decide

theorem meets_LinkWatchesExpire :
    (∀ line ∈ [RxLine.waitHigh, .ready], ∀ p ∈ [(1999, false), (2000, true)], let s := gapped line (BitVec.ofNat 32 p.1)
      s.pins.resetn = true ∧ s.slk.rx.phase ≠ .hunt ∧ s.slk.rx.line = line ∧ s.slk.rx.gapFrom = some 0#32 ∧
        decide (2000 ≤ (s.partTime - 0#32).toNat) = p.2) ∧
      (∀ first ∈ [true, false], let s := gapAtStart first
        s.sched.gapFirst = first ∧ s.slk.rx.line = .receiving 0 0 [] ∧ 2000 ≤ (s.partTime - 0#32).toNat) ∧
      (gapped (.receiving 0 1 []) 2000#32).slk.rx.line = .receiving 0 1 [] ∧
      (gapped (.sampled 0) 2000#32).slk.rx.line = .sampled 0 ∧
      ready.slk.rx.phase = .hunt ∧
      (∀ p ∈ [(0, true), (1, false)], let s := inTrial (BitVec.ofNat 32 p.1)
        s.pins.resetn = true ∧ s.slk.link = .trial ∧ s.slk.trialDeadline = some (BitVec.ofNat 32 p.1) ∧ s.slk.oldRate = some 0 ∧
          atOrBeyond s.partTime (BitVec.ofNat 32 p.1) = p.2) := by decide +kernel

theorem meets_RespondEffect :
    (sending .plain ready).slk.tx ≠ .idle ∧ ready.slk.tx = .idle ∧ ready.slk.responses = [] := by decide

theorem meets_RepeatIsAnsweredFromTheCache :
    ∃ (s : State) (c : Cached), requestOf (.ident 255 []) = some ⟨255, 1, []⟩ ∧ s.linkReady ∧ s.slk.cache = some c ∧
      (255 : Byte) ≠ 0#8 ∧ c.seq = 255 ∧ c.kind = 1 :=
  ⟨ready.withSlk { ready.slk with cache := some { seq := 255, kind := 1, reply := (Answer.plain .ok 0 []).reply } }, _,
    rfl, ⟨rfl, rfl, rfl, by decide, fun _ => ⟨rfl, rfl⟩⟩, rfl, by decide, rfl, rfl⟩

theorem meets_FullRequestQueueAnswersBusy :
    (∀ pr ∈ [(Pause.rateChange, 3), (Pause.rateChange, 4), (Pause.softReset, 0), (Pause.running, 4)],
      ∀ waiting ∈ [0, 3, 4],
        let s := sending .plain (ready.withSlk { ready.slk with
          requests := List.replicate waiting ⟨1, 1, []⟩, responses := List.replicate pr.2 responded, pause := pr.1 })
        requestOf (.ident 1 []) = some ⟨1, 1, []⟩ ∧ s.pins.resetn = true ∧ s.slk.requests.length = waiting ∧ s.slk.tx ≠ .idle ∧
          (s.slk.pause = pr.1 ∧ s.slk.responses.length = pr.2)) ∧
      (waiting.slk.requests = [⟨1, 0x01, []⟩] ∧ waiting.slk.pause = .running ∧ waiting.slk.responses.length < 4 ∧
        waiting.fresh 1 0x01) ∧
      (let s := ready.withSlk { ready.slk with cache := some { seq := 255, kind := 1, reply := (Answer.plain .ok 0 []).reply } }
       (255 : Byte) ≠ 0#8 ∧ s.slk.cache.map (fun c => (c.seq, c.kind)) = some (255, 1)) ∧
      (requestOf (.ident 1 []) = some ⟨1, 0x01, []⟩ ∧ ready.linkReady) :=
  ⟨by decide, ⟨rfl, rfl, by decide, fresh_at_reset 1 0x01⟩, by decide, rfl, ready_link⟩

theorem meets_RefusalsComeInTheirOrder :
    Open ready ∧ requestOf (.unknownKindCommand 0 0 []) = some ⟨0, 0, []⟩ ∧ (∀ row ∈ commandTable, row.1 ≠ 0#8) ∧
      (requestOf (.senseSet 1 [4, 0, 0]) = some ⟨1, 0x12, [4, 0, 0]⟩ ∧
        (0x12#8, 3, [Mode.configure]) ∈ commandTable ∧ Cmd.ofKind 0x12#8 = some .senseSet ∧ ready.run.mode ∈ [Mode.configure] ∧
        (Cmd.senseSet.ranges [4, 0, 0])[0]? = some false ∧ (fieldRanges 0x12#8 [4, 0, 0])[0]? = some false) ∧
      ((Cmd.senseSet.ranges [3, 2, 0])[1]? = some false ∧ (Cmd.senseSet.ranges [3, 2, 0])[0]? = some true ∧
        (fieldRanges 0x12#8 [3, 2, 0])[1]? = some false ∧ (fieldRanges 0x12#8 [3, 2, 0])[0]? = some true) ∧
      (∀ ok ∈ fieldRanges 0x12#8 [3, 1, 255], ok = true) ∧
      ([3#8, 1#8].length ≠ 3) ∧ (Open inRun ∧ inRun.run.mode ∉ [Mode.configure]) :=
  ⟨open_ready, rfl, by decide, by decide, by decide, by decide, by decide, open_inRun, by decide⟩

theorem meets_IdentCarriesTheFixedValues : Open ready ∧ Open inRun := ⟨open_ready, open_inRun⟩

theorem meets_StatusAndLinkStatusReport :
    Open ready ∧ Open inRun ∧ (atOrBeyond 5#32 5#32 = true ∧ atOrBeyond 4#32 5#32 = false) ∧
      (ready.iq.items = [] ∧ (withItem inRun).iq.items = sampleItem :: [] ∧ (withItem inRun).iq.items = [] ++ [sampleItem]) :=
  ⟨open_ready, open_inRun, by decide, rfl, rfl, rfl⟩

theorem meets_ReadsCarryDefinitionAndRunState :
    Open ready ∧ Open inRun ∧ (ready.station 0 0).run.maxOn = none ∧
      ((pulsing .distance 9#32 (some 5#32) inRun).station 0 0).run.maxOn = some 5#32 := ⟨open_ready, open_inRun, rfl, rfl⟩

theorem meets_QueueReadReturnsRecordsInOrder :
    Open (withItem inRun) ∧ (1 ≤ 1 ∧ 1 ≤ 4 ∧ 1 ≤ 4 ∧ 4 ≤ 4) ∧
      ((7#16 ≠ 0#16) ∧ (withItem inRun).iq.items = [] ++ sampleItem :: [] ∧ sampleItem.no = 7#16) ∧
      ∀ i ∈ (withItem inRun).iq.items, i.no ≠ 8#16 :=
  ⟨open_of rfl rfl rfl rfl rfl rfl, by decide, by decide, by decide⟩

theorem meets_LinkSetAndPartResetPauseExecution :
    Open ready ∧ Open (inTrial 0#32) ∧ ((5 : Fin 6) ≠ ready.slk.rate) ∧ ((3 : Fin 6) = (inTrial 0#32).slk.rate) ∧
      (inTrial 0#32).slk.link = .trial :=
  ⟨open_ready, open_of rfl rfl rfl rfl rfl rfl, by decide, rfl, rfl⟩

/-- The settings of LINE_SET at the ends of their ranges. -/
def lineSettings : List LineCfg :=
  [{ countMode := .x1, invert := true, s := 6, filter := 15, standstillMs := 500, revThreshold := 255, revLimit := 65535
     perIndex := 65535, slack := 255, indexFault := true },
   { countMode := .x2, invert := false, s := 0, filter := 0, standstillMs := 1, revThreshold := 1, revLimit := 1
     perIndex := 0, slack := 0, indexFault := false }, .atReset]

theorem meets_LineSetReplacesTheSettings :
    Open ready ∧ ready.run.mode = .configure ∧ (∀ c ∈ lineSettings, c.inRange) ∧
      LineCfg.atReset.s = ready.lei.cfg.s ∧ ∃ c ∈ lineSettings, c.s ≠ ready.lei.cfg.s :=
  ⟨open_ready, rfl, by unfold LineCfg.inRange; decide, rfl, by decide⟩

theorem meets_PosSetPresetsThePosition :
    Open ready ∧ ready.positionSound ∧ ready.lei.turning < ready.lei.countModulus ∧ ready.run.mode = .configure :=
  ⟨open_ready, by unfold State.positionSound; decide, by decide, rfl⟩

/-- The settings of MARK_SET at the ends of their ranges. -/
def markSettings : List MarkCfg :=
  [{ enable := true, input := 3, edge := .falling, minLength := 65535, pitch := 2 ^ 24 - 1, tolerance := 2 ^ 23 - 1
     missLimit := 15, blanking := 2 ^ 24 - 1 },
   { enable := true, input := 0, edge := .rising, minLength := 0, pitch := 1, tolerance := 0, missLimit := 0, blanking := 0 },
   .atReset]

theorem meets_SenseSetAndMarkSetReplaceSettings :
    Open ready ∧ ready.run.mode = .configure ∧ ∀ c ∈ markSettings, c.inRange :=
  ⟨open_ready, rfl, by unfold MarkCfg.inRange; decide⟩

theorem meets_LinesSetAndOutForceActOnTheLines : Open ready ∧ ready.run.mode = .configure := ⟨open_ready, rfl⟩

theorem meets_NoticeClassSetsOneClass :
    Open ready ∧ ((∀ k : Fin 12, k ≠ 10 → 3 ≤ 3 ∧ ((k = 8 ∨ k = 9) → 1 ≤ 3)) ∧ ((10 : Fin 12) = 10 → 3 = 3) ∧
      ((0 : Fin 12) = 8 ∨ (0 : Fin 12) = 9 → 1 ≤ 0)) := ⟨open_ready, by decide⟩

/-- Station definitions at the ends of their ranges. -/
def stationSettings : List StationDef :=
  [Station.atReset.cfg,
   { enabled := true, line := 15, action := .pulse, offset := 2 ^ 24 - 1, lengthKind := .distance, length := 2 ^ 24 - 1
     maxOn := 65535, leadTime := 65535, leadLimit := 2 ^ 20, condition := .windowFail, window := 3 },
   { enabled := true, line := 0, action := .invert, offset := 0, lengthKind := .time, length := 65535, maxOn := 0
     leadTime := 0, leadLimit := 0, condition := .accepted, window := 0 }]

/-- Window definitions at the ends of their ranges. -/
def windowSettings : List WindowDef :=
  [Window.atReset.cfg,
   { enabled := true, input := 3, expected := .inactive, start := 2 ^ 24 - 1, length := 2 ^ 24 - 1, rule := .all }]

theorem meets_settings_in_range : (∀ d ∈ stationSettings, d.inRange) ∧ ∀ d ∈ windowSettings, d.inRange := by
  unfold StationDef.inRange WindowDef.inRange; decide

/-- Bank 1 in a state, in a mode. -/
def bankOne (state : BankState) (m : Mode) : State :=
  inMode m (ready.modBank 1 fun k => { k with state := state, count := 1 })

theorem open_bankOne (state : BankState) (m : Mode) : Open (bankOne state m) := open_of rfl rfl rfl rfl rfl rfl

/-- With meets_settings_in_range. -/
theorem meets_BankEditsReplaceTheContents :
    Open ready ∧ (ready.bank 0).state = .active ∧ ready.run.mode = .configure ∧
      (Open inRun ∧ (inRun.bank 1).state = .idle) ∧ 2 ^ 24 - 1 < 2 ^ 24 ∧ Verdict.reject ≠ .none :=
  ⟨open_ready, rfl, rfl, ⟨open_inRun, rfl⟩, by decide, by decide⟩

/-- With meets_settings_in_range. -/
theorem meets_BankEditsAreRefusedByTable46 :
    (Open (bankOne .armed .run) ∧ ((bankOne .armed .run).bank 1).state = .armed) ∧
      (Open (bankOne .draining .run) ∧ ((bankOne .draining .run).bank 1).state = .draining) ∧
      (Open inRun ∧ (inRun.bank 0).state = .active ∧ inRun.run.mode ≠ .configure) :=
  ⟨⟨open_bankOne _ _, rfl⟩, ⟨open_bankOne _ _, rfl⟩, open_inRun, rfl, by decide⟩

/-- A bank whose first station is enabled with a lead limit beyond its offset. -/
def badBank : Bank :=
  { Bank.atReset .idle with
    stations := (Bank.atReset .idle).stations.set 0
      { Station.atReset with cfg := { Station.atReset.cfg with enabled := true, leadLimit := 1 } } }

theorem meets_BankCommitSwitchesOrArms :
    (∀ st ∈ [BankState.idle, .armed, .active, .draining], ∀ m ∈ [Mode.configure, .run, .stopping],
      (bankOne st m).run.mode ≠ .fault ∧ ((bankOne st m).bank 1).state = st ∧
        ((bankOne st m).bank 1).recipeFault (bankOne st m).mkd.cfg.pitch = none) ∧
      (∀ st m, Open (bankOne st m)) ∧ badBank.state = .idle ∧ badBank.recipeFault 0 = some (.leadExceedsOffset, 0) :=
  ⟨by decide +kernel, open_bankOne, rfl, by decide +kernel⟩

theorem meets_BankCancelWithdrawsAnArmedBank :
    (∀ st ∈ [BankState.idle, .armed, .active, .draining], ((bankOne st .run).bank 1).state = st ∧
      ((bankOne st .run).bank 1).activation.how = .reset) ∧
      (let s := ready.modBank 0 fun k => { k with activation := { how := .direct, first := 0#16 } }
       (s.bank 0).state = .active ∧ (s.bank 0).activation.how ≠ .reset) ∧ ∀ st m, Open (bankOne st m) :=
  ⟨by decide, by decide, open_bankOne⟩

theorem meets_RunStartBeginsTheRun :
    Open ready ∧ ready.run.mode = .configure ∧ ready.run.flt.level = true ∧
      (ready.bank ready.activeBank).recipeFault ready.mkd.cfg.pitch = none ∧
      (ready.withRun { ready.run with flt := { level := false, diff := 0 } }).run.flt.level = false ∧
      (let s := ready.modBank 0 fun k => { badBank with state := k.state }
       (s.bank s.activeBank).recipeFault s.mkd.cfg.pitch = some (.leadExceedsOffset, 0)) :=
  ⟨open_ready, rfl, rfl, by decide +kernel, rfl, by decide +kernel⟩

theorem meets_DrainStopsCreationAndKeepsTheItems :
    (∀ l ∈ [0, 65535], l ≤ 65535) ∧ (Open inRun ∧ inRun.run.mode = .run ∧ inRun.iq.items = [] ∧ inRun.banksLegal ∧
      inRun.countsExact) ∧ (Open (withItem inRun) ∧ (withItem inRun).run.mode = .run ∧ (withItem inRun).iq.items ≠ []) ∧
      (Open (inMode .stopping ready) ∧ (inMode .stopping ready).run.mode = .stopping) :=
  ⟨by decide, ⟨open_inRun, rfl, rfl, by unfold State.banksLegal; decide +kernel, by unfold State.countsExact; decide +kernel⟩,
    ⟨open_of rfl rfl rfl rfl rfl rfl, rfl, by decide⟩, open_inMode _, rfl⟩

theorem meets_FlushAndFaultClearEmptyTheQueue :
    (Open (withItem inRun) ∧ (withItem inRun).banksLegal ∧ (withItem inRun).running = true) ∧
      (let s := withItem (inMode .fault ready); Open s ∧ s.banksLegal ∧ s.run.mode = .fault ∧ s.run.flt.level = true) ∧
      (let s := (inMode .fault ready).withRun { ready.run with mode := .fault, flt := { level := false, diff := 0 } }
       Open s ∧ s.banksLegal ∧ s.run.mode = .fault ∧ s.run.flt.level = false) :=
  ⟨⟨open_of rfl rfl rfl rfl rfl rfl, by unfold State.banksLegal; decide +kernel, rfl⟩,
    ⟨open_of rfl rfl rfl rfl rfl rfl, by unfold State.banksLegal; decide +kernel, rfl, rfl⟩,
    open_of rfl rfl rfl rfl rfl rfl, by unfold State.banksLegal; decide +kernel, rfl, rfl⟩

theorem meets_TagAndVerdictActOnOneItem :
    (Open (withItem inRun) ∧ (withItem inRun).running = true ∧ 7#16 ≠ 0#16 ∧
      (withItem inRun).iq.items = [] ++ sampleItem :: [] ∧ sampleItem.no = 7 ∧ sampleItem.closed = false ∧
      ∀ i ∈ (withItem inRun).iq.items, i.no ≠ 8) ∧
      (let s := (withItem inRun).modItem 7 fun i => { i with closed := true }
       Open s ∧ s.iq.items = [] ++ { sampleItem with closed := true } :: []) ∧ Verdict.accept ≠ .none ∧ Verdict.reject ≠ .none :=
  ⟨⟨open_of rfl rfl rfl rfl rfl rfl, rfl, by decide, rfl, rfl, rfl, by decide⟩,
    ⟨open_of rfl rfl rfl rfl rfl rfl, rfl⟩, by decide, by decide⟩

/-- RUN with the detector OFF and a number of items queued. -/
def filled (n : Nat) : State := inRun.withIq { items := List.replicate n sampleItem, next := 65535#16 }

theorem meets_ItemInjectMakesAnItemAtTheReach :
    (Open inSearch ∧ inSearch.run.mode = .run ∧ inSearch.mkd.state ≠ .off) ∧ (∀ n, Open (filled n)) ∧
      ((filled 48).mkd.state = .off ∧ 48 ≤ (filled 48).iq.items.length) ∧
      ((filled 47).iq.items.length < 48 ∧ (filled 47).iq.next ≠ 0#16) ∧
      ((filled 0).iq.items = [] ∧ (filled 0).armedBank = none ∧
        (∀ d ∈ [1, 2 ^ 24 - 1], let k := (filled 0).modBank 0 fun k => { k with closeDistance := d }
          1 ≤ (k.bank k.activeBank).closeDistance ∧ (k.bank k.activeBank).closeDistance < 2 ^ 24) ∧
        (∀ n, ((filled 0).station (filled 0).activeBank n).cfg.enabled = false) ∧
        ∀ w, ((filled 0).window (filled 0).activeBank w).cfg.enabled = false) ∧
      ((filled 0).modBank 1 fun k => { k with state := .armed }).armedBank = some 1 ∧
      ((∀ i ∈ (filled 47).iq.items, i.no ≠ 65535#16) ∧ (withItem inRun).iq.items = [] ++ sampleItem :: [] ∧
        sampleItem.no = 7#16) :=
  ⟨⟨open_of rfl rfl rfl rfl rfl rfl, rfl, by decide⟩, fun _ => open_of rfl rfl rfl rfl rfl rfl, by decide +kernel, by decide +kernel,
    by decide +kernel, by decide, by decide +kernel⟩

theorem meets_ItemsCloseSettleAndRetireInOrder :
    let done : Item := { sampleItem with verdict := .accept, source := .host, closed := true, state := .decided }
    let s (m : Mode) (l : List Item) : State := (inMode m ready).withIq { items := l, next := 8#16 }
    sampleItem.verdict = .none ∧ done.verdict ≠ .none ∧
      (done.closed = true ∧ (∀ n : Fin 16, done.stations[n] ≠ .pending) ∧ ∀ w : Fin 4, done.windows[w] ≠ .pending) ∧
      sampleItem.closed ≠ true ∧ (s .run []).iq.items = [] ∧
      ((s .run [sampleItem]).iq.items = sampleItem :: [] ∧ sampleItem.state = .tracking) ∧
      ((s .stopping [done]).iq.items = done :: [] ∧ done.state = .decided ∧ (s .stopping [done]).run.mode = .stopping) ∧
      (s .run [done]).run.mode ≠ .stopping := by decide +kernel

/-- A detector with pitch 100, tolerance 9 and an expected position 1000, or in free mode with blanking 50, and the reach at
1020. -/
def judging (state : DetState) (pitch : Nat) (last : Option Pos) : State :=
  ((inMode .run ready).withLei { ready.lei with reach := 1020#32 }).withMkd
    { ready.mkd with
      cfg := { ready.mkd.cfg with pitch := pitch, tolerance := 9, blanking := 50, missLimit := 1 }
      state := state, expected := 1000#32, lastAccepted := last }

theorem meets_CandidatesAreJudgedAndMissesCounted :
    (∀ st ∈ [DetState.search, .track, .coast], (judging st 100 none).run.mode = .run ∧ (judging st 100 none).mkd.state = st) ∧
      (atOrBeyond (1000#32 + 9#32) 1009#32 = true ∧ atOrBeyond 1009#32 (1000#32 - 9#32) = true ∧
        atOrBeyond (1020#32) (1009#32 + 100#32 + 10#32) = false) ∧
      (atOrBeyond 990#32 (1000#32 - 9#32) = false ∧ atOrBeyond (1000#32 + 9#32) 990#32 = true ∧
        atOrBeyond 990#32 991#32 = false ∧ atOrBeyond 991#32 991#32 = true) ∧
      (∀ last, (judging .search 0 last).mkd.lastAccepted = last ∧ (judging .search 0 last).mkd.cfg.pitch = 0) ∧
      (atOrBeyond 990#32 (941#32 + 50#32) = false ∧ atOrBeyond 990#32 (940#32 + 50#32) = true ∧
        atOrBeyond 990#32 941#32 = true) ∧
      ((judging .track 100 none).mkd.missRun < (judging .track 100 none).mkd.cfg.missLimit ∧
        (let s := (judging .coast 100 none).withMkd { (judging .coast 100 none).mkd with missRun := 1 }
         s.run.mode = .run ∧ s.mkd.cfg.missLimit ≤ s.mkd.missRun)) ∧
      (∀ reach ∈ [(1009, false), (1010, true)], let s := judging .track 100 none
        atOrBeyond (BitVec.ofNat 32 reach.1) (s.mkd.expected + BitVec.ofNat 32 (s.mkd.cfg.tolerance + 1)) = reach.2) ∧
      (∀ lead ∈ [(990, false), (991, true), (1009, true), (1010, false)],
        let s := (judging .track 100 none).withMkd { (judging .track 100 none).mkd with candidate := some (BitVec.ofNat 32 lead.1) }
        s.mkd.candidate = some (BitVec.ofNat 32 lead.1) ∧ decide (atOrBeyond (BitVec.ofNat 32 lead.1)
            (s.mkd.expected - BitVec.ofNat 32 s.mkd.cfg.tolerance) = true ∧
          atOrBeyond (s.mkd.expected + BitVec.ofNat 32 s.mkd.cfg.tolerance) (BitVec.ofNat 32 lead.1) = true) = lead.2) ∧
      (∀ reach ∈ [(9, false), (10, true)], candidateOpen.running = true ∧ candidateOpen.mkd.state = .search ∧
        candidateOpen.mkd.candidate = some 0#32 ∧
          atOrBeyond (BitVec.ofNat 32 reach.1) (0#32 + BitVec.ofNat 32 candidateOpen.mkd.cfg.minLength) = reach.2) ∧
      (atOrBeyond (5#32 + 0x40000000#32) (5#32 + 0x40000000#32) = true ∧
        atOrBeyond (4#32 + 0x40000000#32) (5#32 + 0x40000000#32) = false) ∧
      (inSearch.mkd.cfg.input = 0 ∧ inSearch.mkd.cfg.edge = .rising ∧ inSearch.mkd.candidate = none ∧
        inSearch.lei.position = inSearch.lei.reach ∧ (behind 1#32).lei.position ≠ (behind 1#32).lei.reach ∧
        ready.running = false) :=
  ⟨by decide, by decide, by decide, fun _ => ⟨rfl, rfl⟩, by decide, by decide, by decide, by decide, by decide, by decide,
    by decide⟩

/-- Station 0 of bank 0 at offset 50 with an item at mark position 100 at its cursor, and the reach at a position. -/
def approaching (condition : Condition) (reach : Pos) : State :=
  ((withItem inRun).withLei { inRun.lei with reach := reach, valid := true, interval := 512 }).modStation 0 0 fun st =>
    { cfg := { st.cfg with enabled := true, offset := 50, condition := condition, leadTime := 1, leadLimit := 1 }
      run := { st.run with cursor := some 7#16 } }

/-- Station 0 of bank 0 with a definition and a pulse state, an item with mark position 100 being taken. -/
def acting (d : StationDef) (on : Bool) (line : Fin 16) (kind : LengthKind) : State :=
  inRun.modStation 0 0 fun _ =>
    { cfg := d, run := { Station.atReset.run with on := on, pulseLine := line, endKind := kind } }

theorem meets_StationActsByItsDefinition :
    let base := Station.atReset.cfg
    (∀ a ∈ [Action.set, .clear, .invert],
      ((acting { base with action := a } false 0 .distance).station 0 0).cfg.action = a) ∧
      (let s := acting base false 0 .distance
       base.action = .pulse ∧ base.lengthKind = .distance ∧ s.lead 0 0 = 0 ∧
        atOrBeyond s.lei.reach (100#32 + 0#32 + 1#32 - 0#32) = false ∧
        atOrBeyond 101#32 (100#32 + 0#32 + 1#32 - 0#32) = true ∧ (s.station 0 0).run.on = false) ∧
      (let s := acting base true 0 .distance
       (s.station 0 0).run.on = true ∧ (s.station 0 0).run.pulseLine = base.line ∧ (s.station 0 0).run.endKind = .distance) ∧
      (((acting base true 1 .distance).station 0 0).run.pulseLine ≠ base.line) ∧
      (((acting base true 0 .time).station 0 0).run.endKind ≠ .distance) ∧
      (let s := acting { base with lengthKind := .time } true 0 .time
       (s.station 0 0).cfg.lengthKind = .time ∧ (s.station 0 0).run.on = true ∧ (s.station 0 0).run.endKind = .time) ∧
      (let s := approaching .always 149#32
       s.lei.valid = true ∧ (s.station 0 0).cfg.leadTime ≠ 0 ∧ s.lei.interval ≠ 0 ∧ s.lead 0 0 = 1 ∧ ready.lei.valid = false) ∧
      (∀ reach ∈ [(148, false), (149, true)], let s := approaching .always (BitVec.ofNat 32 reach.1)
        s.running = true ∧ (s.station 0 0).run.cursor = some 7#16 ∧ s.iq.items = [] ++ sampleItem :: [] ∧
          atOrBeyond s.lei.reach (sampleItem.mark + BitVec.ofNat 32 (s.station 0 0).cfg.offset - BitVec.ofNat 32 (s.lead 0 0)) =
            reach.2) ∧
      (((approaching .always 149#32).station 0 0).cfg.evaluate sampleItem = some true ∧
        ((approaching .accepted 149#32).station 0 0).cfg.evaluate sampleItem = none) ∧
      (((withItem inRun).station 0 0).run.cursor = none ∧ ready.running = false) := by
  decide +kernel

/-- Window 0 of bank 0 of length 2, starting at the mark. -/
def watching (reach : Pos) (opened : Bool) (rule : Rule) : State :=
  (behind reach).modWindow 0 0 fun w =>
    { cfg := { w.cfg with enabled := true, length := 2, rule := rule }, run := { w.run with opened := opened, recClose := 102#32 } }

theorem meets_WindowOpensAndResolves :
    (∀ p ∈ [(99, false, false), (100, true, false), (101, true, false), (102, true, true)],
      let s := watching (BitVec.ofNat 32 p.1) false .any
      (s.window 0 0).run.opened = false ∧ atOrBeyond s.lei.reach (100#32 + 0#32) = p.2.1 ∧
        atOrBeyond s.lei.reach (100#32 + 2#32) = p.2.2) ∧
      (∀ p ∈ [(101, false), (102, true)],
        let s := watching (BitVec.ofNat 32 p.1) true .all
        (s.window 0 0).run.opened = true ∧ atOrBeyond s.lei.reach (s.window 0 0).run.recClose = p.2) ∧
      (∀ p ∈ [(99, none), (102, some WindowOutcome.missed)],
        let s := ((withItem (watching (BitVec.ofNat 32 p.1) false .any)).modWindowRun 0 0 fun r => { r with cursor := some 7#16 })
        s.running = true ∧ s.iq.items = [] ++ sampleItem :: [] ∧ (s.window 0 0).run.cursor = some 7#16 ∧
          (windowTest 0 0 sampleItem s).2 = p.2) ∧
      ((watching 101#32 true .any).running = true ∧ ((watching 101#32 true .any).window 0 0).run.opened = true ∧
        ((watching 101#32 true .any).window 0 0).cfg.input = 0 ∧ ((watching 101#32 true .any).window 0 0).run.cursor = none) ∧
      (ready.running = false ∧ ((watching 101#32 false .any).window 0 0).run.opened = false ∧ (0 : Fin 4) ≠ 1) := by
  decide +kernel

theorem meets_OutPinsFollowTheMode :
    (inRun.running = true ∧ (inRun.modLine 15 fun l => { l with latch := true }).running = true ∧
      ((inRun.modLine 15 fun l => { l with latch := true }).line 15).latch = true) ∧
      (let s := pulsing .time 0#32 none inRun
       s.running = true ∧ (s.station 0 0).run.on = true ∧ (s.station 0 0).run.pulseLine = 0) ∧
      ((inRun.line 0).latch = false ∧ ∀ b n, (inRun.station b n).run.on = true → (inRun.station b n).run.pulseLine ≠ 0) ∧
      ready.run.mode = .configure ∧ (inMode .fault ready).run.mode = .fault := by decide +kernel

theorem meets_OfferedNoticeIsQueuedOrShed :
    (Ntq.atReset.classes[NoticeKind.stray.slot] = 0 ∧ Ntq.atReset.classes[NoticeKind.link.slot] = 3) ∧
      ((List.replicate 31 (noticeOf 3)).length < 32) ∧
      (let q := List.replicate 30 (noticeOf 3) ++ noticeOf 2 :: [noticeOf 3]
       32 ≤ q.length ∧ (noticeOf 2).cls < 3 ∧ (∀ k ∈ q, (noticeOf 2).cls ≤ k.cls) ∧
        (∀ k ∈ [noticeOf 3], k.cls ≠ (noticeOf 2).cls) ∧ q.filter (fun m => m.number != 5#16 - 32768#16) = q) ∧
      (32 ≤ (List.replicate 32 (noticeOf 3)).length ∧ ∀ k ∈ List.replicate 32 (noticeOf 3), 3 ≤ k.cls) := by decide +kernel

theorem withItem_numbers : (withItem inRun).numbersFollow := by
  have e : (withItem inRun).iq.items.map (·.no) ++ [(withItem inRun).iq.next] = [7#16, 8#16] := rfl
  unfold State.numbersFollow
  rw [e]
  exact ⟨by simp, List.isChain_pair.mpr (by decide)⟩

theorem withItem_turning : (withItem inRun).turningInRange := by unfold State.turningInRange; decide

/-- For CapacityKept, BanksAndModeKept, DetectorAndCountsKept and ActuatorsAndPositionKept: a state in RUN with an item (the machine
after reset meets them too: ResetMeetsTheConditions). -/
theorem meets_the_conditions_kept :
    let s := withItem inRun
    s.withinCapacity ∧ s.banksLegal ∧ s.runLegal ∧ s.quietOutsideRun ∧ s.countsExact ∧ s.actuatorsQuiet ∧ s.positionSound ∧
      s.numbersFollow ∧ s.turningInRange ∧ s.detectorIdle ∧ ∃ t, step s = .next t :=
  ⟨by unfold State.withinCapacity; decide, by unfold State.banksLegal; decide +kernel,
    ⟨fun _ => ⟨rfl, rfl⟩, (fun h => nomatch h), fun h => absurd rfl h⟩,
    ⟨fun h => absurd rfl h, (fun h => nomatch h)⟩, by unfold State.countsExact; decide +kernel, fun h => (nomatch h),
    by unfold State.positionSound; decide, withItem_numbers, withItem_turning,
    fun h => absurd rfl h, idleStep _, rfl⟩

end Sys2Proof.Tests
end

section
/-! Stations and actuator lines: the end of a pulse, the demand sets and the OUT pins. -/

namespace Sys2Proof.Machine

/-! ### The end of a pulse -/

/-- What an update of one station's run state does depends only on the run state that stands there. -/
theorem State.modStationRun_congr (b : Fin 2) (n : Fin 16) {f g : StationRun → StationRun} {s : State}
    (h : f (s.station b n).run = g (s.station b n).run) : s.modStationRun b n f = s.modStationRun b n g := by
  unfold State.station State.bank at h
  simp only [State.modStationRun, State.modStation, State.modBank, Bank.modStation, h]

/-- The end of a pulse that is ON (R77, R78, R79). -/
theorem endPulse_of_on (cause : EndCause) {r : StationRun} (on : r.on = true) :
    r.endPulse cause = { r with on := false, maxOn := none, lastEnd := cause } := if_pos on

theorem endPulseOf_of_on (b : Fin 2) (n : Fin 16) (cause : EndCause) {s : State} (on : (s.station b n).run.on = true) :
    endPulseOf b n cause s = s.modStationRun b n fun r => { r with on := false, maxOn := none, lastEnd := cause } :=
  State.modStationRun_congr b n (endPulse_of_on cause on)

theorem State.timeEndDue_iff {s : State} {b : Fin 2} {n : Fin 16} :
    s.timeEndDue b n = true ↔ (s.station b n).run.on = true ∧ (s.station b n).run.endKind = .time ∧
      atOrBeyond s.partTime (s.station b n).run.endTarget = true := by
  simp [State.timeEndDue, and_assoc]

/-! ### Demand sets (R81) -/

@[simp] theorem serve_demandSet (s : State) (l : Fin 16) : (serve s).demandSet l = s.demandSet l := by
  simp only [State.demandSet, serve_station]

/-- A station whose pulse ends leaves every demand set, and no other station enters or leaves one. -/
theorem endPulseOf_demandSet (b : Fin 2) (n : Fin 16) (cause : EndCause) (s : State) (l : Fin 16) :
    (endPulseOf b n cause s).demandSet l = (s.demandSet l).filter fun p => p != (b, n) := by
  unfold State.demandSet
  rw [List.filter_filter]
  refine List.filter_congr fun p _ => ?_
  rw [endPulseOf, State.modStationRun_station]
  by_cases same : p = (b, n)
  · subst same
    simp
  · have other : ¬ (b = p.1 ∧ n = p.2) := fun ⟨hb, hn⟩ => same (Prod.ext hb.symm hn.symm)
    rw [if_neg other, bne_iff_ne.mpr same, Bool.true_and]

/-- Settles O19: the event is due, so it ends the pulse with cause TARGET; the transmitter's choice moves no station. -/
theorem timePulseEndsAtItsEndTarget : Obligations.TimePulseEndsAtItsEndTarget := by
  intro s b n high on kind reached
  have ended : endPulseOf b n .target s =
      s.modStationRun b n fun r => { r with on := false, maxOn := none, lastEnd := .target } :=
    endPulseOf_of_on b n .target on
  refine ⟨?_, fun l => ?_⟩
  · rw [exec_timePulseEnd_high b n (State.held_of_high high), if_pos (State.timeEndDue_iff.mpr ⟨on, kind, reached⟩), ended]
  · rw [serve_demandSet, ← ended]
    exact endPulseOf_demandSet b n .target s l

/-! ### Logical levels and OUT pins (R81, R83) -/

theorem mem_allStations (p : Fin 2 × Fin 16) : p ∈ allStations := by
  revert p
  decide

theorem State.mem_demandSet {s : State} {l : Fin 16} {p : Fin 2 × Fin 16} :
    p ∈ s.demandSet l ↔ (s.station p.1 p.2).run.on = true ∧ (s.station p.1 p.2).run.pulseLine = l := by
  simp [State.demandSet, mem_allStations]

theorem State.logicalLevel_iff {s : State} {l : Fin 16} :
    s.logicalLevel l = true ↔ (s.line l).latch = true ∨
      ∃ b n, (s.station b n).run.on = true ∧ (s.station b n).run.pulseLine = l := by
  have demanded : (!(s.demandSet l).isEmpty) = true ↔
      ∃ b n, (s.station b n).run.on = true ∧ (s.station b n).run.pulseLine = l := by
    rw [Bool.not_eq_true', List.isEmpty_eq_false_iff_exists_mem, Prod.exists]
    simp only [State.mem_demandSet]
  rw [State.logicalLevel, Bool.or_eq_true, demanded]

theorem State.pinActive_of_running {s : State} (running : s.running = true) (l : Fin 16) :
    s.pinActive l = s.logicalLevel l := by
  unfold State.running at running
  unfold State.pinActive
  cases mode : s.run.mode with
  | run => rfl
  | stopping => rfl
  | configure => simp [mode, Mode.running] at running
  | fault => simp [mode, Mode.running] at running

theorem State.pinActive_of_configure {s : State} (mode : s.run.mode = .configure) (l : Fin 16) :
    s.pinActive l = decide ((s.line l).forced = .active) := by
  rw [State.pinActive, mode]
  rfl

theorem State.pinActive_of_fault {s : State} (mode : s.run.mode = .fault) (l : Fin 16) : s.pinActive l = false := by
  rw [State.pinActive, mode]

/-- Settles O54: in each mode, whether the pin is active; the polarity of the line gives the level. -/
theorem outPinsFollowTheMode : Obligations.OutPinsFollowTheMode := by
  intro s l level
  have pin {active : Bool} (h : s.pinActive l = active) : s.outPin l = level active := h ▸ rfl
  refine ⟨fun running wanted => pin ?_, fun running unlatched idle => pin ?_, fun mode => pin ?_, fun mode => pin ?_⟩
  · rw [State.pinActive_of_running running]
    exact State.logicalLevel_iff.mpr wanted
  · rw [State.pinActive_of_running running, Bool.eq_false_iff, Ne, State.logicalLevel_iff]
    rintro (latched | ⟨b, n, on, line⟩)
    · rw [unlatched] at latched
      cases latched
    · exact idle b n on line
  · exact State.pinActive_of_configure mode l
  · exact State.pinActive_of_fault mode l

end Sys2Proof.Machine
end

section
/-! The queries of the serial link. -/

namespace Sys2Proof.Machine

/-- The content of IDENT byte by byte: the vendor and part codes high byte first, the revision, the six capacities (R166). -/
theorem identContent_bytes :
    identContent = [0x43#8, 0x41#8, 0x01#8, 0x3C#8, 2#8, 48#8, 16#8, 4#8, 16#8, 4#8, 32#8] := by decide

/-- The action of IDENT, whatever the payload, leaves the state as it is and answers OK with the fixed content (R166). -/
theorem run_ident (p : List Byte) (s : State) : Cmd.ident.run p s = (s, .plain .ok 0 identContent) := rfl

/-- Settles O30: IDENT has no fields and is taken in every mode, so it passes steps 1 to 4 of R158 and acts. -/
theorem identCarriesTheFixedValues : Obligations.IdentCarriesTheFixedValues := by
  intro s seq ready fresh
  have noFields : firstBad (Cmd.ident.ranges []) = none := rfl
  have everyMode : Cmd.ident.takenIn s.run.mode = true := rfl
  have taken := exec_taken (i := .ident seq []) .ident rfl s ready fresh rfl everyMode noFields
  rw [run_ident, identContent_bytes] at taken
  exact taken

end Sys2Proof.Machine
end

section
/-! What a link command does to the tracking core, run control and the line, said once. -/

namespace Sys2Proof.Machine

/-- An edit of a bank's contents: its state, count and activation record stay, and so does the run state of its stations. -/
structure EditsContents (f : Bank → Bank) : Prop where
  state : ∀ k, (f k).state = k.state
  count : ∀ k, (f k).count = k.count
  runs : ∀ (k : Bank) (n : Fin 16), ((f k).stations[n]).run = (k.stations[n]).run

/-- What the action of a taken command makes of the state, but for the link, the notices, and the inputs. -/
inductive CmdDoes (s : State) : State → Prop where
  /-- a query, or a command of the link, the inputs or the notice classes -/
  | same {t : State} (h : SameCore s t) : CmdDoes s t
  /-- LINE_SET (R16) -/
  | line (c : LineCfg) (mode : s.run.mode = .configure) (range : c.s ≤ 6) : CmdDoes s (s.withLei (s.lei.configure c))
  /-- POS_SET (R18) -/
  | preset (p : Pos) (mode : s.run.mode = .configure) : CmdDoes s (s.withLei (s.lei.preset p))
  /-- MARK_SET (R22) -/
  | marks (c : MarkCfg) : CmdDoes s (s.withMkd { s.mkd with cfg := c })
  /-- STN_WRITE, CHK_WRITE, BANK_PARAM (R85, R100, R109) -/
  | edit (b : Fin 2) (f : Bank → Bank) (contents : EditsContents f) : CmdDoes s (s.modBank b f)
  /-- BANK_COMMIT (R112) -/
  | commit (b : Fin 2) (mode : s.run.mode ≠ .fault) (idle : (s.bank b).state = .idle) : CmdDoes s (commitBank b s)
  /-- BANK_CANCEL (R115) -/
  | cancel (b : Fin 2) (armed : (s.bank b).state = .armed) : CmdDoes s (s.modBank b fun k => { k with state := .idle })
  /-- LINES_SET, OUT_FORCE (R87, R88) -/
  | lines {t : State} (v : Vector Line 16) (latches : ∀ l : Fin 16, (v[l]).latch = (s.line l).latch)
      (h : t = s.withAct v) : CmdDoes s t
  /-- RUN_START (R124) -/
  | start (mode : s.run.mode = .configure) : CmdDoes s (startRun s)
  /-- RUN_STOP DRAIN (R125) -/
  | drain (limit : Nat) (mode : s.run.mode = .run) : CmdDoes s (startDrain limit s)
  /-- RUN_STOP FLUSH (R128) -/
  | flush (mode : s.running = true) : CmdDoes s (flushTo .flushed s)
  /-- FAULT_CLEAR (R132) -/
  | clear (mode : s.run.mode = .fault) :
      CmdDoes s (flushTo .cleared (s.withRun { s.run with faults := .empty, first := none }))
  /-- ITEM_TAG, ITEM_VERDICT, ITEM_INJECT (R47, R53, R55) -/
  | acts {t : State} (h : Acts .tracking s t) : CmdDoes s t

/-- A command whose fields are in range, field by field (R158 step 4). -/
theorem firstBad_none_iff {l : List Bool} : firstBad l = none ↔ ∀ ok ∈ l, ok = true := by
  refine ⟨fun h ok mem => ?_, firstBad_none⟩
  simp only [firstBad, Option.map_eq_none_iff, List.findIdx?_eq_none_iff] at h
  simpa using h ok mem

theorem editBank_does (p : List Byte) (f : Bank → Bank) (contents : EditsContents f) (s : State) :
    CmdDoes s (editBank p f s).1 := by
  rcases edit_cases p f s with same | ⟨-, edited⟩
  · rw [same]; exact .same (.refl s)
  · rw [edited]; exact .edit _ f contents

theorem modStation_editsContents (n : Fin 16) (d : StationDef) :
    EditsContents (Bank.modStation n fun st => { st with cfg := d }) := by
  refine ⟨fun _ => rfl, fun _ => rfl, fun k m => ?_⟩
  rw [Bank.modStation_stations]
  split
  · rename_i h; subst h; rfl
  · rfl

theorem modWindow_editsContents (w : Fin 4) (d : WindowDef) :
    EditsContents (Bank.modWindow w fun wd => { wd with cfg := d }) :=
  ⟨fun _ => rfl, fun _ => rfl, fun _ _ => rfl⟩

theorem runBankCommit_does (p : List Byte) (s : State) (mode : s.run.mode ≠ .fault) :
    CmdDoes s (runBankCommit p s).1 := by
  unfold runBankCommit
  dsimp only
  split
  · exact .same (.refl s)
  · exact .same (.refl s)
  · exact .same (.refl s)
  · rename_i idle
    split
    · exact .same (.refl s)
    · exact .commit _ mode idle

theorem runBankCancel_does (p : List Byte) (s : State) : CmdDoes s (runBankCancel p s).1 := by
  unfold runBankCancel
  dsimp only
  split
  · rename_i armed; exact .cancel _ armed
  · split <;> exact .same (.refl s)
  · exact .same (.refl s)

/-- LINES_SET changes polarities and nothing else (R87). -/
theorem linesSet_lines (field : Nat) (ns : List (Fin 16)) (s : State) (m : Fin 16) :
    (ns.foldl (fun s n => s.modLine n fun l => { l with polarity := linePolarity field n }) s).line m =
      if m ∈ ns then { s.line m with polarity := linePolarity field m } else s.line m := by
  induction ns generalizing s with
  | nil => rfl
  | cons n ns ih =>
    rw [List.foldl_cons, ih, State.modLine_line]
    by_cases e : n = m
    · subst e; simp
    · simp [e, Ne.symm e]

theorem runLinesSet_does (p : List Byte) (s : State) : CmdDoes s (runLinesSet p s).1 := by
  obtain ⟨v, hv⟩ := foldLines allStationNos (fun n l => { l with polarity := linePolarity (num2 p 0) n }) s
  have run : (runLinesSet p s).1 = s.withAct v := hv
  refine .lines v (fun l => ?_) run
  have := linesSet_lines (num2 p 0) allStationNos s l
  rw [hv] at this
  show ((s.withAct v).line l).latch = _
  rw [this]
  split <;> rfl

theorem runOutForce_does (p : List Byte) (s : State) : CmdDoes s (runOutForce p s).1 := by
  refine .lines (runOutForce p s).1.act (fun l => ?_) rfl
  show ((s.modLine _ _).line l).latch = _
  rw [State.modLine_line]
  split
  · rename_i e; subst e; rfl
  · rfl

theorem runRunStart_does (s : State) (mode : s.run.mode = .configure) : CmdDoes s (runRunStart s).1 := by
  unfold runRunStart
  split
  · exact .same (.refl s)
  · split
    · exact .same (.refl s)
    · exact .start mode

theorem State.mode_cases_of_running {s : State} (h : s.running = true) : s.run.mode = .run ∨ s.run.mode = .stopping := by
  cases m : s.run.mode <;> simp [State.running, Mode.running, m] at h ⊢

theorem runRunStop_does (p : List Byte) (s : State) (mode : s.running = true) : CmdDoes s (runRunStop p s).1 := by
  unfold runRunStop runDrain runFlush
  split
  · split
    · exact .same (.refl s)
    · rename_i other
      exact .drain _ ((s.mode_cases_of_running mode).resolve_right other)
  · exact .flush mode

theorem runFaultClear_does (s : State) (mode : s.run.mode = .fault) : CmdDoes s (runFaultClear s).1 := by
  unfold runFaultClear
  split
  · exact .same (.refl s)
  · exact .clear mode

/-- What each command does, taken in its modes with its fields in range (R158 step 5). -/
theorem Cmd.run_does (c : Cmd) (p : List Byte) (s : State) (mode : c.takenIn s.run.mode = true)
    (ranges : firstBad (c.ranges p) = none) : CmdDoes s (c.run p s).1 := by
  cases c with
  | ident => exact .same (.refl s)
  | status => exact .same (.refl s)
  | linkSet =>
    refine .same ?_
    show SameCore s (runLinkSet p s).1
    unfold runLinkSet endTrialFirst
    dsimp only
    split <;> split <;> exact ⟨rfl, rfl, rfl, rfl, rfl, rfl⟩
  | linkStatus =>
    refine .same ?_
    show SameCore s (runLinkStatus p s).1
    unfold runLinkStatus
    dsimp only
    split <;> exact ⟨rfl, rfl, rfl, rfl, rfl, rfl⟩
  | partReset => exact .same (.refl s)
  | lineSet =>
    refine .line _ (beq_iff_eq.mp mode) ?_
    have := firstBad_none_iff.mp ranges (decide (byteAt p 2 ≤ 6)) (by simp [Cmd.ranges, lineRanges])
    exact of_decide_eq_true this
  | posSet => exact .preset _ (beq_iff_eq.mp mode)
  | senseSet => exact .same ⟨rfl, rfl, rfl, rfl, rfl, rfl⟩
  | markSet => exact .marks _
  | stnWrite => exact editBank_does p _ (modStation_editsContents _ _) s
  | stnRead => exact .same (.refl s)
  | chkWrite => exact editBank_does p _ (modWindow_editsContents _ _) s
  | chkRead => exact .same (.refl s)
  | bankParam =>
    refine editBank_does p (fun k => { k with
      closeDistance := num3 p 1, defaultVerdict := (Verdict.ofCode (byteAt p 4)).getD .accept }) ?_ s
    exact ⟨fun _ => rfl, fun _ => rfl, fun _ _ => rfl⟩
  | bankCommit => exact runBankCommit_does p s (bne_iff_ne.mp mode)
  | bankCancel => exact runBankCancel_does p s
  | linesSet => exact runLinesSet_does p s
  | outForce => exact runOutForce_does p s
  | runStart => exact runRunStart_does s (beq_iff_eq.mp mode)
  | runStop => exact runRunStop_does p s mode
  | faultClear => exact runFaultClear_does s (beq_iff_eq.mp mode)
  | itemTag => exact .acts (tag_acts p s)
  | itemVerdict => exact .acts (verdict_acts p s)
  | itemInject => exact .acts (inject_acts s (beq_iff_eq.mp mode))
  | queueRead => exact .same (.refl s)
  | noticeClass => exact .same ⟨rfl, rfl, rfl, rfl, rfl, rfl⟩

end Sys2Proof.Machine
end

section
/-! The conditions that every step keeps: each is kept by every event and by what every command does. -/

namespace Sys2Proof.Machine

/-- A condition that, the detector being IDLE outside RUN, every event and every command keeps. -/
structure KeptWhileIdle (P : State → Prop) : Prop where
  core : CoreCondition P
  steady : ∀ s l, Steady s.lei l → P s → P (s.withLei l)
  count : ∀ (s : State) d, P s → P (s.withLei (s.lei.count s.run.mode d s.partTime))
  subStep : ∀ (s : State), s.lei.subStepsOn s.run.mode = true → P s → P (s.withLei (s.lei.subStep s.run.mode))
  flt : ∀ (s : State) f, P s → P (s.withRun { s.run with flt := f })
  acts : ∀ {p : Power} (s t : State), Acts p s t → P s → P t
  reset : ∀ pending pins samples sched rate, P (State.atReset pending pins samples sched rate)
  flush : ∀ (s : State) reason, s.running = true → P s → P (flushTo reason s)
  does : ∀ s t, CmdDoes s t → P s → P t

theorem keptByCommands {P : State → Prop} (does : ∀ s t, CmdDoes s t → P s → P t) : KeptByCommands P :=
  fun c p s h _ mode ranges => does s _ (c.run_does p s mode ranges) h

theorem State.running_of_run {s : State} (h : s.run.mode = .run) : s.running = true := by
  simp [State.running, h, Mode.running]

theorem State.running_of_stopping {s : State} (h : s.run.mode = .stopping) : s.running = true := by
  simp [State.running, h, Mode.running]

theorem State.running_of_configure {s : State} (h : s.run.mode = .configure) : s.running = false := by
  simp [State.running, h, Mode.running]

theorem State.running_of_fault {s : State} (h : s.run.mode = .fault) : s.running = false := by
  simp [State.running, h, Mode.running]

/-- RUN_STOP DRAIN: STOPPING with its N_MODE, and acts after it (R125, R127). -/
theorem startDrain_acts (limit : Nat) (s : State) : ∃ drain, Acts .settling
    (((s.withRun { s.run with mode := .stopping, drain := drain }).withMkd s.mkd.toIdle).offerMode .run .drain .nothing none)
    (startDrain limit s) := by
  obtain ⟨u, drain, hu, -, h⟩ := startDrain_eq limit s
  refine ⟨drain, ?_⟩
  rw [← hu, h]
  split
  · rename_i empty
    refine .drained u ?_ ?_
    · rw [hu]; simp [State.offerMode]
    · rw [hu]; simpa [State.offerMode] using empty
  · exact .refl u

/-! ### The detector (R23) -/

theorem flushTo_mkd (reason : ModeReason) (s : State) : (flushTo reason s).mkd = s.mkd.toIdle :=
  enterConfigure_mkd reason _ _

theorem detectorIdle_of_state {t : State} (h : t.mkd.state = .idle) : t.detectorIdle := fun _ => h

theorem detectorIdle_core : CoreCondition State.detectorIdle := fun s t same idle => by
  unfold State.detectorIdle
  rw [same.run, same.mkd]
  exact idle

theorem CmdDoes.detectorIdle {s t : State} (h : CmdDoes s t) (idle : s.detectorIdle) : t.detectorIdle := by
  cases h with
  | same h => exact detectorIdle_core _ _ h idle
  | line c mode range => exact idle
  | preset p mode => exact idle
  | marks c => exact idle
  | edit b f contents => exact idle
  | commit b mode hb =>
    unfold commitBank commitDirect State.offerBank
    split
    · exact detectorIdle_core _ _ (offer_same _ _) idle
    · exact idle
  | cancel b armed => exact idle
  | lines v latches e => subst e; exact idle
  | start mode =>
    intro other
    rw [(startRun_rest s).1] at other
    exact absurd rfl other
  | drain limit mode =>
    obtain ⟨drain, acts⟩ := startDrain_acts limit s
    exact acts.detectorIdle (detectorIdle_core _ _ (offer_same _ _) (detectorIdle_of_state rfl))
  | flush mode => exact detectorIdle_of_state (by rw [flushTo_mkd]; rfl)
  | clear mode => exact detectorIdle_of_state (by rw [flushTo_mkd]; rfl)
  | acts h => exact h.detectorIdle idle

theorem detectorIdle_kept : KeptWhileIdle State.detectorIdle where
  core := detectorIdle_core
  steady _ _ _ h := h
  count _ _ h := h
  subStep _ _ h := h
  flt _ _ h := h
  acts _ _ a h := a.detectorIdle h
  reset _ _ _ _ _ := detectorIdle_of_state rfl
  flush s reason _ _ := detectorIdle_of_state (by rw [flushTo_mkd]; rfl)
  does _ _ d h := d.detectorIdle h

theorem KeptWhileIdle.events {P : State → Prop} (k : KeptWhileIdle P) : KeptByEvents fun s => s.detectorIdle ∧ P s where
  core s t same h := ⟨detectorIdle_core s t same h.1, k.core s t same h.2⟩
  steady s l hl h := ⟨h.1, k.steady s l hl h.2⟩
  count s d h := ⟨h.1, k.count s d h.2⟩
  subStep s on h := ⟨h.1, k.subStep s on h.2⟩
  flt s f h := ⟨h.1, k.flt s f h.2⟩
  mkd _ h := h.1
  acts s t a h := ⟨a.detectorIdle h.1, k.acts s t a h.2⟩
  reset pending pins samples sched rate := ⟨detectorIdle_of_state rfl, k.reset pending pins samples sched rate⟩
  flush s h mode :=
    ⟨detectorIdle_kept.flush s _ (s.running_of_stopping mode) h.1, k.flush s _ (s.running_of_stopping mode) h.2⟩

/-- Every step keeps a condition that the events and the commands keep. -/
theorem KeptWhileIdle.step {P : State → Prop} (k : KeptWhileIdle P) {s t : State} (idle : s.detectorIdle) (h : P s)
    (ht : Machine.step s = .next t) : t.detectorIdle ∧ P t :=
  step_keeps k.events (keptByCommands fun _ _ d h => ⟨d.detectorIdle h.1, k.does _ _ d h.2⟩) s t ⟨idle, h⟩ ht

/-! ### The banks (R104, R106) -/

theorem banksLegal_core : CoreCondition State.banksLegal := fun _ _ same h =>
  State.banksLegal_congr h (fun r => same.running.trans r) (fun b => by rw [same.bank]) (fun b => by rw [same.bank])

/-- Legal states of the banks stay legal at a change of mode that leaves no bank ARMED outside RUN and STOPPING. -/
theorem State.banksLegal.withRun {s : State} (h : s.banksLegal) (r : Run)
    (mode : s.running = true → r.mode.running = true) : (s.withRun r).banksLegal :=
  State.banksLegal_congr h mode (fun _ => rfl) (fun _ => rfl)

theorem State.banksLegal.active_other {s : State} (h : s.banksLegal) {b : Fin 2} (idle : (s.bank b).state ≠ .active) :
    (s.bank (otherBank b)).state = .active := by
  obtain ⟨one, -⟩ := h
  match b, idle with
  | 0, idle => by_contra other; exact idle (one.mpr other)
  | 1, idle => exact one.mpr idle

/-- A bank that is not ACTIVE takes another state in which it is not ACTIVE and has nothing to drain. -/
theorem State.banksLegal.restate {s : State} (h : s.banksLegal) {b : Fin 2} {x : BankState}
    (before : (s.bank b).state ≠ .active) (inactive : x ≠ .active) (empty : x ≠ .draining)
    (armed : x = .armed → s.running = true) : (s.modBank b fun k => { k with state := x }).banksLegal := by
  obtain ⟨one, each⟩ := h
  refine ⟨?_, fun c => ?_⟩
  · simp only [State.modBank_bank]
    match b, before with
    | 0, before => simpa [inactive, before] using one
    | 1, before => simpa [inactive, before] using one
  · rw [State.modBank_bank]
    split
    · exact ⟨armed, fun draining => absurd draining empty⟩
    · exact each c

theorem commitBank_banksLegal {s : State} (h : s.banksLegal) {b : Fin 2} (mode : s.run.mode ≠ .fault)
    (idle : (s.bank b).state = .idle) : (commitBank b s).banksLegal := by
  unfold commitBank
  split
  · unfold commitDirect State.offerBank
    refine offer_banksLegal (State.banksLegal_of_active (b := b) ?_ ?_ ?_ ?_) _
    all_goals simp [Bank.activate, otherBank_ne, (otherBank_ne b).symm]
  · rename_i other
    have running : s.running = true := by
      cases m : s.run.mode <;> simp_all [State.running, Mode.running]
    exact h.restate (by rw [idle]; decide) (by decide) (by decide) fun _ => running

theorem flushTo_banksLegal {s : State} (h : s.banksLegal) (reason : ModeReason) : (flushTo reason s).banksLegal :=
  enterConfigure_banksLegal (removeItems_banksLegal h) _ _

theorem startDrain_banksLegal {s : State} (h : s.banksLegal) (limit : Nat) : (startDrain limit s).banksLegal := by
  obtain ⟨drain, acts⟩ := startDrain_acts limit s
  have stopping : ((s.withRun { s.run with mode := .stopping, drain := drain }).withMkd s.mkd.toIdle).banksLegal :=
    h.withRun { s.run with mode := .stopping, drain := drain } fun _ => rfl
  exact acts.banksLegal (offer_banksLegal stopping _)

theorem CmdDoes.banksLegal {s t : State} (h : CmdDoes s t) (legal : s.banksLegal) : t.banksLegal := by
  cases h with
  | same h => exact banksLegal_core _ _ h legal
  | line c mode range => exact legal
  | preset p mode => exact legal
  | marks c => exact legal
  | edit b f contents =>
    refine State.banksLegal_congr legal (fun r => r) (fun c => ?_) (fun c => ?_)
    · rw [State.modBank_bank]
      split
      · rename_i e; subst e; exact contents.state _
      · rfl
    · rw [State.modBank_bank]
      split
      · rename_i e; subst e; exact contents.count _
      · rfl
  | commit b mode idle => exact commitBank_banksLegal legal mode idle
  | cancel b armed => exact legal.restate (by rw [armed]; decide) (by decide) (by decide) fun h => by cases h
  | lines v latches e => subst e; exact legal
  | start mode =>
    obtain ⟨run, -, banks, -⟩ := startRun_rest s
    refine State.banksLegal_congr legal (fun _ => State.running_of_run (by rw [run])) (fun b => ?_) (fun b => ?_)
    all_goals unfold State.bank; rw [banks]
  | drain limit mode => exact startDrain_banksLegal legal limit
  | flush mode => exact flushTo_banksLegal legal _
  | clear mode =>
    exact flushTo_banksLegal (legal.withRun { s.run with faults := .empty, first := none } fun r => r) _
  | acts h => exact h.banksLegal legal

theorem banksLegal_atReset (pending : List Instr) (pins : Pins) (samples : List Pins) (sched : Sched) (rate : Fin 6) :
    (State.atReset pending pins samples sched rate).banksLegal :=
  State.banksLegal_of_active (b := 0) rfl (fun h => by cases h) (fun h => by cases h) fun h => by cases h

theorem banksLegal_kept : KeptWhileIdle State.banksLegal where
  core := banksLegal_core
  steady _ _ _ h := h
  count _ _ h := h
  subStep _ _ h := h
  flt s f h := h.withRun { s.run with flt := f } fun r => r
  acts _ _ a h := a.banksLegal h
  reset := banksLegal_atReset
  flush _ _ _ h := flushTo_banksLegal h _
  does _ _ d h := d.banksLegal h

/-! ### Faults, first fault and drain deadline (R121) -/

theorem runLegal_core : CoreCondition State.runLegal := fun _ _ same h => State.runLegal_congr h same.run

/-- Outside FAULT no fault is held. -/
theorem State.runLegal.clean {s : State} (h : s.runLegal) (mode : s.run.mode ≠ .fault) :
    s.run.faults = .empty ∧ s.run.first = none := h.1 mode

theorem runLegal_of_clean {t : State} (clean : t.run.faults = .empty ∧ t.run.first = none) (mode : t.run.mode ≠ .fault)
    (drain : t.run.drain ≠ none → t.run.mode = .stopping) : t.runLegal :=
  ⟨fun _ => clean, fun fault => absurd fault mode, drain⟩

theorem flushTo_runLegal {s : State} (clean : s.run.faults = .empty ∧ s.run.first = none) (reason : ModeReason) :
    (flushTo reason s).runLegal := by
  obtain ⟨run, -⟩ := removeItems_rest s
  unfold flushTo
  exact enterConfigure_runLegal (by rw [run]; exact clean) _ _

theorem State.mode_ne_fault_of_running {s : State} (h : s.running = true) : s.run.mode ≠ .fault := fun mode => by
  rw [State.running_of_fault mode] at h
  cases h

theorem CmdDoes.runLegal {s t : State} (h : CmdDoes s t) (legal : s.runLegal) : t.runLegal := by
  cases h with
  | same h => exact runLegal_core _ _ h legal
  | line c mode range => exact legal
  | preset p mode => exact legal
  | marks c => exact legal
  | edit b f contents => exact legal
  | commit b mode idle =>
    unfold commitBank commitDirect State.offerBank
    split
    · exact State.runLegal_congr legal (by simp [State.modBank])
    · exact legal
  | cancel b armed => exact legal
  | lines v latches e => subst e; exact legal
  | start mode =>
    obtain ⟨run, -⟩ := startRun_rest s
    have clean := legal.clean (by rw [mode]; decide)
    have noDrain : s.run.drain = none := by
      by_contra armed
      have := legal.2.2 armed
      rw [mode] at this
      cases this
    exact runLegal_of_clean (by rw [run]; exact clean) (by rw [run]; exact fun h => by cases h)
      (by rw [run]; exact fun h => absurd noDrain h)
  | drain limit mode =>
    obtain ⟨drain, acts⟩ := startDrain_acts limit s
    have clean := legal.clean (by rw [mode]; decide)
    refine acts.runLegal (runLegal_core _ _ (offer_same _ _) ?_)
    exact runLegal_of_clean clean (fun h => by cases h) fun _ => rfl
  | flush mode => exact flushTo_runLegal (legal.clean (State.mode_ne_fault_of_running mode)) _
  | clear mode => exact flushTo_runLegal ⟨rfl, rfl⟩ _
  | acts h => exact h.runLegal legal

theorem runLegal_kept : KeptWhileIdle State.runLegal where
  core := runLegal_core
  steady _ _ _ h := h
  count _ _ h := h
  subStep _ _ h := h
  flt _ _ h := h
  acts _ _ a h := a.runLegal h
  reset _ _ _ _ _ := runLegal_of_clean ⟨rfl, rfl⟩ (fun h => by cases h) fun h => absurd rfl h
  flush s reason running h := flushTo_runLegal (h.clean (State.mode_ne_fault_of_running running)) reason
  does _ _ d h := d.runLegal h

/-- Settles O58: the states of the banks, and the faults with the deadline, are each kept by every event and every
command. -/
theorem banksAndModeKept : Obligations.BanksAndModeKept := fun _ _ banks run idle ht =>
  ⟨(banksLegal_kept.step idle banks ht).2, (runLegal_kept.step idle run ht).2⟩

end Sys2Proof.Machine
end

section
/-! The queue, the reference counts, the item numbers, the actuators and the position: each condition is kept by every event
and every command. -/

namespace Sys2Proof.Machine

/-! ### The queue is empty in CONFIGURE, and the reference counts are exact (R60, R105) -/

/-- The queue is empty in CONFIGURE, and each reference count is the number of queued items of its bank. -/
def State.queueSound (s : State) : Prop := (s.run.mode = .configure → s.iq.items = []) ∧ s.countsExact

theorem queueSound_congr {s t : State} (h : s.queueSound) (mode : t.run.mode = .configure → s.run.mode = .configure)
    (items : t.iq.items = s.iq.items) (count : ∀ b, (t.bank b).count = (s.bank b).count) : t.queueSound :=
  ⟨fun m => items.trans (h.1 (mode m)), State.countsExact_congr h.2 items count⟩

theorem queueSound_core : CoreCondition State.queueSound := fun _ _ same h =>
  queueSound_congr h (fun m => by rw [← same.run]; exact m) (by rw [same.iq]) fun b => by rw [same.bank]

theorem Acts.queueSound {p : Power} {s t : State} (a : Acts p s t) (h : s.queueSound) : t.queueSound :=
  ⟨a.configureEmpty h.1, a.countsExact h.2⟩

/-- A flush leaves no item and no count (R60, R117). -/
theorem flushTo_entries (reason : ModeReason) (s : State) :
    (flushTo reason s).iq = { s.iq with items := [] } ∧ ∀ b, ((flushTo reason s).bank b).count = 0 := by
  unfold flushTo
  obtain ⟨v, hv, -, iq, -, -, -, -, -, -, banks⟩ := enterConfigure_eq reason (removeItems s).2 (removeItems s).1
  obtain ⟨-, -, -, -, removed⟩ := removeItems_rest s
  rw [hv]
  refine ⟨by rw [State.offer_iq, iq, removed], fun b => ?_⟩
  rw [State.offer_bank, (banks b).1, (removeItems_bank s b).1]

theorem queueSound_of_empty {t : State} (items : t.iq.items = []) (count : ∀ b, (t.bank b).count = 0) : t.queueSound :=
  ⟨fun _ => items, fun b => by rw [count, items]; rfl⟩

theorem flushTo_queueSound (reason : ModeReason) (s : State) : (flushTo reason s).queueSound := by
  obtain ⟨iq, count⟩ := flushTo_entries reason s
  exact queueSound_of_empty (by rw [iq]) count

/-- A command that changes no item and no count, and enters CONFIGURE nowhere. -/
theorem commitBank_entries (b : Fin 2) (s : State) : (commitBank b s).run = s.run ∧ (commitBank b s).iq = s.iq ∧
    (commitBank b s).lei = s.lei ∧ (commitBank b s).act = s.act ∧
    (∀ c, ((commitBank b s).bank c).count = (s.bank c).count) ∧
    ∀ c n, (commitBank b s).station c n = s.station c n := by
  unfold commitBank
  split
  · unfold commitDirect State.offerBank
    refine ⟨by simp [State.modBank], by simp [State.modBank], by simp [State.modBank], by simp [State.modBank],
      fun c => ?_, fun c n => ?_⟩
    · simp only [State.offer_bank, State.modBank_bank, Bank.activate]
      split <;> split <;> simp_all
    · rw [State.offer_station, modBank_station _ _ _ _ (Bank.activate .direct 0#16) fun _ => rfl,
        modBank_station _ _ _ _ (fun k => { k with state := .idle }) fun _ => rfl]
  · refine ⟨rfl, rfl, rfl, rfl, fun c => ?_, fun c n => modBank_station _ _ _ _ (fun k => { k with state := .armed }) fun _ => rfl⟩
    rw [State.modBank_bank]
    split
    · rename_i e; subst e; rfl
    · rfl

theorem CmdDoes.queueSound {s t : State} (h : CmdDoes s t) (sound : s.queueSound) : t.queueSound := by
  cases h with
  | same h => exact queueSound_core _ _ h sound
  | line c mode range => exact sound
  | preset p mode => exact sound
  | marks c => exact sound
  | edit b f contents =>
    refine queueSound_congr sound (fun m => m) rfl fun c => ?_
    rw [State.modBank_bank]
    split
    · rename_i e; subst e; exact contents.count _
    · rfl
  | commit b mode idle =>
    obtain ⟨run, iq, -, -, count, -⟩ := commitBank_entries b s
    exact queueSound_congr sound (fun m => by rw [← run]; exact m) (by rw [iq]) count
  | cancel b armed =>
    refine queueSound_congr sound (fun m => m) rfl fun c => ?_
    rw [State.modBank_bank]
    split
    · rename_i e; subst e; rfl
    · rfl
  | lines v latches e => subst e; exact sound
  | start mode =>
    obtain ⟨run, iq, banks, -⟩ := startRun_rest s
    exact queueSound_congr sound (fun m => by rw [run] at m; cases m) (by rw [iq]) fun b => by
      unfold State.bank; rw [banks]
  | drain limit mode =>
    obtain ⟨drain, acts⟩ := startDrain_acts limit s
    refine acts.queueSound (queueSound_core _ _ (offer_same _ _) ?_)
    exact queueSound_congr sound (fun m => by cases m) rfl fun _ => rfl
  | flush mode => exact flushTo_queueSound _ _
  | clear mode => exact flushTo_queueSound _ _
  | acts h => exact h.queueSound sound

theorem queueSound_atReset (pending : List Instr) (pins : Pins) (samples : List Pins) (sched : Sched) (rate : Fin 6) :
    (State.atReset pending pins samples sched rate).queueSound :=
  queueSound_of_empty rfl fun b => by fin_cases b <;> rfl

theorem queueSound_kept : KeptWhileIdle State.queueSound where
  core := queueSound_core
  steady _ _ _ h := h
  count _ _ h := h
  subStep _ _ h := h
  flt _ _ h := h
  acts _ _ a h := a.queueSound h
  reset := queueSound_atReset
  flush s reason _ _ := flushTo_queueSound reason s
  does _ _ d h := d.queueSound h

/-! ### The numbers of the items (R38, R39) -/

theorem numbersFollow_core : CoreCondition State.numbersFollow := fun _ _ same h =>
  State.numbersFollow_congr h (by rw [same.iq]) (by rw [same.iq])

/-- The next number is none of the numbers that are 0. -/
theorem State.numbersFollow.next_ne {s : State} (h : s.numbersFollow) : s.iq.next ≠ 0#16 :=
  h.1 _ (List.mem_append_right _ (List.mem_singleton.mpr rfl))

theorem State.numbersFollow.no_ne {s : State} (h : s.numbersFollow) {i : Item} (mem : i ∈ s.iq.items) : i.no ≠ 0#16 :=
  h.1 _ (List.mem_append_left _ (List.mem_map_of_mem mem))

theorem flushTo_numbersFollow {s : State} (h : s.iq.next ≠ 0#16) (reason : ModeReason) :
    (flushTo reason s).numbersFollow := by
  obtain ⟨iq, -⟩ := flushTo_entries reason s
  exact State.numbersFollow_empty (by rw [iq]) (by rw [iq]; exact h)

theorem CmdDoes.numbersFollow {s t : State} (h : CmdDoes s t) (follow : s.numbersFollow) : t.numbersFollow := by
  cases h with
  | same h => exact numbersFollow_core _ _ h follow
  | line c mode range => exact follow
  | preset p mode => exact follow
  | marks c => exact follow
  | edit b f contents => exact follow
  | commit b mode idle =>
    obtain ⟨-, iq, -⟩ := commitBank_entries b s
    exact State.numbersFollow_congr follow (by rw [iq]) (by rw [iq])
  | cancel b armed => exact follow
  | lines v latches e => subst e; exact follow
  | start mode =>
    obtain ⟨-, iq, -⟩ := startRun_rest s
    exact State.numbersFollow_congr follow (by rw [iq]) (by rw [iq])
  | drain limit mode =>
    obtain ⟨drain, acts⟩ := startDrain_acts limit s
    exact acts.numbersFollow (numbersFollow_core _ _ (offer_same _ _) follow)
  | flush mode => exact flushTo_numbersFollow follow.next_ne _
  | clear mode =>
    exact flushTo_numbersFollow (s := s.withRun { s.run with faults := .empty, first := none }) follow.next_ne _
  | acts h => exact h.numbersFollow follow

theorem numbersFollow_kept : KeptWhileIdle State.numbersFollow where
  core := numbersFollow_core
  steady _ _ _ h := h
  count _ _ h := h
  subStep _ _ h := h
  flt _ _ h := h
  acts _ _ a h := a.numbersFollow h
  reset _ _ _ _ _ := State.numbersFollow_empty rfl fun h => by cases h
  flush _ reason _ h := flushTo_numbersFollow h.next_ne reason
  does _ _ d h := d.numbersFollow h

/-- Settles O59: the queue with the counts, and the numbers, are each kept by every event and every command; numbers that run
on within the capacity are distinct. -/
theorem detectorAndCountsKept : Obligations.DetectorAndCountsKept := by
  refine ⟨fun s t quiet counts ht => ?_, fun s t follow idle ht => (numbersFollow_kept.step idle follow ht).2,
    fun s follow within => ⟨follow.distinct within.1, fun _ mem => follow.no_ne mem, follow.next_ne⟩⟩
  obtain ⟨idle, empty, counts⟩ := queueSound_kept.step quiet.1 ⟨quiet.2, counts⟩ ht
  exact ⟨⟨idle, empty⟩, counts⟩

/-! ### Pulses and latches (R80, R84) -/

theorem actuatorsQuiet_core : CoreCondition State.actuatorsQuiet := fun _ _ same h =>
  State.actuatorsQuiet_congr h same.running (fun b n => by rw [same.station]) fun l => by rw [same.line]

theorem flushTo_actuatorsQuiet (reason : ModeReason) (s : State) : (flushTo reason s).actuatorsQuiet :=
  enterConfigure_actuatorsQuiet _ _ _

theorem modBank_on (s : State) (b c : Fin 2) (n : Fin 16) {f : Bank → Bank}
    (runs : ∀ (k : Bank) (m : Fin 16), ((f k).stations[m]).run = (k.stations[m]).run) :
    ((s.modBank b f).station c n).run = (s.station c n).run := by
  simp only [State.station, State.modBank_bank]
  split
  · rename_i e; subst e; exact runs _ n
  · rfl

theorem CmdDoes.actuatorsQuiet {s t : State} (h : CmdDoes s t) (quiet : s.actuatorsQuiet) : t.actuatorsQuiet := by
  cases h with
  | same h => exact actuatorsQuiet_core _ _ h quiet
  | line c mode range => exact quiet
  | preset p mode => exact quiet
  | marks c => exact quiet
  | edit b f contents =>
    exact State.actuatorsQuiet_congr quiet rfl (fun c n => by rw [modBank_on s b c n contents.runs]) fun _ => rfl
  | commit b mode idle =>
    obtain ⟨run, -, -, act, -, station⟩ := commitBank_entries b s
    exact State.actuatorsQuiet_congr quiet (by unfold State.running; rw [run]) (fun c n => by rw [station])
      fun l => by unfold State.line; rw [act]
  | cancel b armed =>
    exact State.actuatorsQuiet_congr quiet rfl
      (fun c n => by rw [modBank_on s b c n (f := fun k => { k with state := .idle }) fun _ _ => rfl]) fun _ => rfl
  | lines v latches e =>
    subst e
    exact State.actuatorsQuiet_congr quiet rfl (fun _ _ => rfl) latches
  | start mode => exact actuatorsQuiet_of_running (State.running_of_run (by rw [(startRun_rest s).1]))
  | drain limit mode =>
    obtain ⟨drain, acts⟩ := startDrain_acts limit s
    exact acts.actuatorsQuiet (actuatorsQuiet_core _ _ (offer_same _ _) (actuatorsQuiet_of_running rfl))
  | flush mode => exact flushTo_actuatorsQuiet _ _
  | clear mode => exact flushTo_actuatorsQuiet _ _
  | acts h => exact h.actuatorsQuiet quiet

theorem actuatorsQuiet_atReset (pending : List Instr) (pins : Pins) (samples : List Pins) (sched : Sched) (rate : Fin 6) :
    (State.atReset pending pins samples sched rate).actuatorsQuiet := by
  refine fun _ => ⟨fun b n => ?_, fun l => ?_⟩
  · fin_cases b <;> simp [State.station, State.bank, State.atReset, Bank.atReset, Station.atReset]
  · simp [State.line, State.atReset, Line.atReset]

theorem actuatorsQuiet_kept : KeptWhileIdle State.actuatorsQuiet where
  core := actuatorsQuiet_core
  steady _ _ _ h := h
  count _ _ h := h
  subStep _ _ h := h
  flt _ _ h := h
  acts _ _ a h := a.actuatorsQuiet h
  reset := actuatorsQuiet_atReset
  flush s reason _ _ := flushTo_actuatorsQuiet reason s
  does _ _ d h := d.actuatorsQuiet h

/-! ### The position and the turning point (R4, R10, R12) -/

/-- The parts of the position are in range, whatever the mode. -/
def Lei.partsInRange (l : Lei) : Prop := l.cfg.s ≤ 6 ∧ l.countReg < l.countModulus ∧ l.sub < 2 ^ l.cfg.s

theorem positionSound_core : CoreCondition State.positionSound := fun s t same h => by
  unfold State.positionSound
  rw [same.lei, same.run]
  exact h

theorem positionSound_intro {t : State} (parts : t.lei.partsInRange)
    (reach : t.run.mode = .configure → t.lei.reach = t.lei.position) : t.positionSound :=
  ⟨parts.1, parts.2.1, parts.2.2, reach⟩

theorem State.positionSound.parts {s : State} (h : s.positionSound) : s.lei.partsInRange := ⟨h.1, h.2.1, h.2.2.1⟩

/-- What the parts of the position and the reach are to a change of LEI that leaves them. -/
theorem position_congr {l m : Lei} (cfg : m.cfg = l.cfg) (reg : m.countReg = l.countReg) (sub : m.sub = l.sub) :
    m.position = l.position ∧ (l.partsInRange → m.partsInRange) := by
  unfold Lei.position Lei.partsInRange Lei.countModulus
  rw [cfg, reg, sub]
  exact ⟨rfl, id⟩

theorem positionSound_of_parts {s t : State} (h : s.positionSound) (cfg : t.lei.cfg = s.lei.cfg)
    (reg : t.lei.countReg = s.lei.countReg) (sub : t.lei.sub = s.lei.sub)
    (reach : t.run.mode = .configure → t.lei.reach = t.lei.position) : t.positionSound :=
  positionSound_intro ((position_congr cfg reg sub).2 h.parts) reach

theorem follow_configure (l : Lei) : (l.follow .configure).reach = l.position := by
  rw [follow_reach, if_pos rfl]

/-- A sub-step adds 1 to sub and moves the reach and the sub-step timer, nothing else (R7, R11). -/
theorem subStep_fields (mode : Mode) (l : Lei) : l.subStep mode = { l with
    sub := l.sub + 1, reach := (l.subStep mode).reach, subTimer := (l.subStep mode).subTimer } := by
  unfold Lei.subStep Lei.restartSub
  rw [follow_fields]

theorem subStep_reach (mode : Mode) (l : Lei) :
    (l.subStep mode).reach = (({ l with sub := l.sub + 1 } : Lei).follow mode).reach := rfl

theorem subStep_positionSound {s : State} (on : s.lei.subStepsOn s.run.mode = true) (h : s.positionSound) :
    (s.withLei (s.lei.subStep s.run.mode)).positionSound := by
  have fields := subStep_fields s.run.mode s.lei
  have below : s.lei.sub + 1 < 2 ^ s.lei.cfg.s := by
    simp only [Lei.subStepsOn, Bool.and_eq_true, decide_eq_true_eq] at on
    exact on.1.2
  obtain ⟨small, reg, -⟩ := h.parts
  refine positionSound_intro ?_ fun mode => ?_
  · rw [State.withLei_lei, fields]
    exact ⟨small, reg, below⟩
  · rw [State.withLei_run] at mode
    rw [mode] at fields
    rw [State.withLei_lei, mode, subStep_reach, follow_configure, fields]
    rfl

theorem count_positionSound {s : State} (d : Dir) (h : s.positionSound) :
    (s.withLei (s.lei.count s.run.mode d s.partTime)).positionSound := by
  have c := count_leaves s.run.mode d s.partTime s.lei
  obtain ⟨small, -, -⟩ := h.parts
  refine positionSound_intro ⟨?_, ?_, ?_⟩ fun mode => ?_
  · rw [State.withLei_lei, c.cfg]; exact small
  · unfold Lei.countModulus
    rw [State.withLei_lei, c.cfg, c.countReg]
    exact move_lt d s.lei
  · rw [State.withLei_lei, c.sub]; exact Nat.two_pow_pos _
  · rw [State.withLei_run] at mode
    have reach := c.reach
    rw [if_pos mode] at reach
    exact reach

theorem Acts.positionSound {p : Power} {s t : State} (a : Acts p s t) (h : s.positionSound) : t.positionSound := by
  obtain ⟨fields, -, -, atConfigure⟩ := a.lei
  refine positionSound_of_parts h (by rw [fields]) (by rw [fields]) (by rw [fields]) fun mode => ?_
  by_cases running : s.running = true
  · exact atConfigure running mode
  · obtain ⟨sameMode, sameLei⟩ := a.stopped (Bool.eq_false_iff.mpr running)
    rw [sameLei]
    exact h.2.2.2 (sameMode.symm.trans mode)

/-- A flush sets the reach to the position and leaves the rest of LEI (R12). -/
theorem flushTo_lei (reason : ModeReason) (s : State) : (flushTo reason s).lei = { s.lei with reach := s.lei.position } := by
  unfold flushTo
  obtain ⟨v, hv, -, -, -, lei, -⟩ := enterConfigure_eq reason (removeItems s).2 (removeItems s).1
  obtain ⟨-, removed, -⟩ := removeItems_rest s
  rw [hv, State.offer_lei, lei, removed]

theorem flushTo_positionSound {s : State} (parts : s.lei.partsInRange) (reason : ModeReason) :
    (flushTo reason s).positionSound := by
  have lei := flushTo_lei reason s
  refine positionSound_intro ?_ fun _ => ?_
  · rw [lei]; exact parts
  · rw [lei]; rfl

/-- LINE_SET leaves the parts of the position in range, the reach at the position where it stood there, and the turning point a
value of the count register (R16, R17). -/
theorem configure_sound {l : Lei} (parts : l.partsInRange) {c : LineCfg} (range : c.s ≤ 6) :
    (l.configure c).partsInRange ∧ (l.reach = l.position → (l.configure c).reach = (l.configure c).position) ∧
      (l.configure c).turning < (l.configure c).countModulus := by
  obtain ⟨-, reg, sub⟩ := parts
  unfold Lei.configure
  dsimp only
  split
  · rename_i same
    unfold Lei.partsInRange Lei.position Lei.countModulus at *
    dsimp only at *
    rw [same]
    exact ⟨⟨same ▸ range, reg, sub⟩, id, reg⟩
  · have positive : 0 < 2 ^ (32 - c.s) := Nat.two_pow_pos _
    refine ⟨⟨range, positive, Nat.two_pow_pos _⟩, fun _ => ?_, positive⟩
    simp [Lei.position]

/-- POS_SET: the position is the value given (R18). -/
theorem preset_position (p : Pos) (l : Lei) : (l.preset p).position = p := by
  unfold Lei.preset Lei.position
  dsimp only
  rw [Nat.div_add_mod']
  simp

theorem preset_sound {l : Lei} (parts : l.partsInRange) (p : Pos) :
    (l.preset p).partsInRange ∧ (l.preset p).turning < (l.preset p).countModulus := by
  obtain ⟨small, -, -⟩ := parts
  have modulus : l.countModulus * 2 ^ l.cfg.s = 2 ^ 32 := by
    unfold Lei.countModulus; rw [← Nat.pow_add]; congr 1; omega
  refine ⟨⟨small, ?_, Nat.mod_lt _ (Nat.two_pow_pos _)⟩, Nat.mod_lt _ (Nat.two_pow_pos _)⟩
  show p.toNat / 2 ^ l.cfg.s < l.countModulus
  rw [Nat.div_lt_iff_lt_mul (Nat.two_pow_pos _), modulus]
  exact p.isLt

theorem CmdDoes.positionSound {s t : State} (h : CmdDoes s t) (sound : s.positionSound) : t.positionSound := by
  cases h with
  | same h => exact positionSound_core _ _ h sound
  | line c mode range =>
    obtain ⟨parts, reach, -⟩ := configure_sound sound.parts range
    exact positionSound_intro parts fun _ => reach (sound.2.2.2 mode)
  | preset p mode =>
    exact positionSound_intro (preset_sound sound.parts p).1 fun _ => (preset_position p s.lei).symm
  | marks c => exact sound
  | edit b f contents => exact sound
  | commit b mode idle =>
    obtain ⟨run, -, lei, -⟩ := commitBank_entries b s
    unfold State.positionSound
    rw [run, lei]
    exact sound
  | cancel b armed => exact sound
  | lines v latches e => subst e; exact sound
  | start mode =>
    obtain ⟨-, -, -, lei⟩ := startRun_rest s
    exact positionSound_of_parts sound (by rw [lei]) (by rw [lei]) (by rw [lei]) fun _ => by rw [lei]; rfl
  | drain limit mode =>
    obtain ⟨drain, acts⟩ := startDrain_acts limit s
    refine acts.positionSound (positionSound_core _ _ (offer_same _ _) ?_)
    exact positionSound_of_parts sound rfl rfl rfl fun mode => by cases mode
  | flush mode => exact flushTo_positionSound sound.parts _
  | clear mode =>
    exact flushTo_positionSound (s := s.withRun { s.run with faults := .empty, first := none }) sound.parts _
  | acts h => exact h.positionSound sound

theorem positionSound_atReset (pending : List Instr) (pins : Pins) (samples : List Pins) (sched : Sched) (rate : Fin 6) :
    (State.atReset pending pins samples sched rate).positionSound :=
  positionSound_intro ⟨(by decide : 4 ≤ 6), Nat.two_pow_pos _, Nat.two_pow_pos _⟩ fun _ => rfl

theorem Steady.position {l m : Lei} (h : Steady l m) : m.position = l.position :=
  (position_congr h.cfg h.countReg h.sub).1

theorem steady_positionSound {s : State} {l : Lei} (steady : Steady s.lei l) (h : s.positionSound) :
    (s.withLei l).positionSound :=
  positionSound_of_parts h steady.cfg steady.countReg steady.sub fun mode => by
    rw [State.withLei_lei, steady.position, steady.reach]
    exact h.2.2.2 mode

theorem positionSound_kept : KeptWhileIdle State.positionSound where
  core := positionSound_core
  steady _ _ steady h := steady_positionSound steady h
  count _ d h := count_positionSound d h
  subStep _ on h := subStep_positionSound on h
  flt _ _ h := h
  acts _ _ a h := a.positionSound h
  reset := positionSound_atReset
  flush _ reason _ h := flushTo_positionSound h.parts reason
  does _ _ d h := d.positionSound h

/-- The position is sound and the turning point a value of the count register. -/
def State.turningSound (s : State) : Prop := s.positionSound ∧ s.turningInRange

theorem turningInRange_of_lei {s t : State} (h : s.turningInRange) (cfg : t.lei.cfg = s.lei.cfg)
    (turning : t.lei.turning = s.lei.turning) : t.turningInRange := by
  unfold State.turningInRange Lei.countModulus at *
  rw [cfg, turning]
  exact h

/-- After a count the turning point is the old one or the new count (R10). -/
theorem count_turningInRange {s : State} (d : Dir) (h : s.turningInRange) :
    (s.withLei (s.lei.count s.run.mode d s.partTime)).turningInRange := by
  have c := count_leaves s.run.mode d s.partTime s.lei
  have turning := (track_motion d (s.lei.move d)).2
  unfold State.turningInRange Lei.countModulus
  rw [State.withLei_lei, c.cfg, c.turning, turning]
  split
  · exact move_lt d s.lei
  · exact h

theorem CmdDoes.turningInRange {s t : State} (h : CmdDoes s t) (sound : s.positionSound) (turning : s.turningInRange) :
    t.turningInRange := by
  cases h with
  | same h => exact turningInRange_of_lei turning (by rw [h.lei]) (by rw [h.lei])
  | line c mode range => exact (configure_sound sound.parts range).2.2
  | preset p mode => exact (preset_sound sound.parts p).2
  | marks c => exact turning
  | edit b f contents => exact turning
  | commit b mode idle =>
    obtain ⟨-, -, lei, -⟩ := commitBank_entries b s
    exact turningInRange_of_lei turning (by rw [lei]) (by rw [lei])
  | cancel b armed => exact turning
  | lines v latches e => subst e; exact turning
  | start mode =>
    obtain ⟨-, -, -, lei⟩ := startRun_rest s
    exact turningInRange_of_lei turning (by rw [lei]) (by rw [lei])
  | drain limit mode =>
    obtain ⟨drain, acts⟩ := startDrain_acts limit s
    have lei := acts.lei.1
    exact turningInRange_of_lei turning (by rw [lei, State.offerMode, State.offer_lei]; rfl)
      (by rw [lei, State.offerMode, State.offer_lei]; rfl)
  | flush mode =>
    have lei := flushTo_lei .flushed s
    exact turningInRange_of_lei turning (by rw [lei]) (by rw [lei])
  | clear mode =>
    have lei := flushTo_lei .cleared (s.withRun { s.run with faults := .empty, first := none })
    exact turningInRange_of_lei turning (by rw [lei]; rfl) (by rw [lei]; rfl)
  | acts h =>
    have lei := h.lei.1
    exact turningInRange_of_lei turning (by rw [lei]) (by rw [lei])

theorem turningSound_kept : KeptWhileIdle State.turningSound where
  core s t same h :=
    ⟨positionSound_core s t same h.1, turningInRange_of_lei h.2 (by rw [same.lei]) (by rw [same.lei])⟩
  steady s l steady h := by
    refine ⟨steady_positionSound steady h.1, ?_⟩
    rcases steady.turning with old | count
    · exact turningInRange_of_lei h.2 steady.cfg old
    · unfold State.turningInRange Lei.countModulus
      rw [State.withLei_lei, steady.cfg, count]
      exact h.1.parts.2.1
  count _ d h := ⟨count_positionSound d h.1, count_turningInRange d h.2⟩
  subStep s on h := by
    have fields := subStep_fields s.run.mode s.lei
    exact ⟨subStep_positionSound on h.1,
      turningInRange_of_lei h.2 (by rw [State.withLei_lei, fields]) (by rw [State.withLei_lei, fields])⟩
  flt _ _ h := h
  acts _ _ a h := by
    have lei := a.lei.1
    exact ⟨a.positionSound h.1, turningInRange_of_lei h.2 (by rw [lei]) (by rw [lei])⟩
  reset pending pins samples sched rate := ⟨positionSound_atReset pending pins samples sched rate, Nat.two_pow_pos _⟩
  flush s reason _ h := by
    have lei := flushTo_lei reason s
    exact ⟨flushTo_positionSound h.1.parts reason, turningInRange_of_lei h.2 (by rw [lei]) (by rw [lei])⟩
  does _ _ d h := ⟨d.positionSound h.1, d.turningInRange h.1 h.2⟩

/-- Settles O60: the actuators, the position, and with it the turning point are each kept by every event and every command. -/
theorem actuatorsAndPositionKept : Obligations.ActuatorsAndPositionKept :=
  ⟨fun _ _ quiet sound idle ht =>
      ⟨(actuatorsQuiet_kept.step idle quiet ht).2, (positionSound_kept.step idle sound ht).2⟩,
    fun _ _ sound turning idle ht => (turningSound_kept.step idle ⟨sound, turning⟩ ht).2.2⟩

end Sys2Proof.Machine
end

section
/-! One fine tick: the filters, the samples, and the events that join the queue (log 3). -/

namespace Sys2Proof.Machine

/-! ### One sample at a filter (R1, R20, R122) -/

/-- A filter after a sample at which the filtered level does not take the raw level at once. -/
def Filt.after (time : Nat) (raw : Bool) (f : Filt) : Filt :=
  if f.unsampled = true then { level := raw, diff := 0 }
  else if raw = f.level then { f with diff := 0 } else if time ≤ f.diff then f else { f with diff := f.diff + 1 }

/-- Whether the filtered level takes the raw level at a sample. -/
def Filt.changes (time : Nat) (raw : Bool) (f : Filt) : Bool :=
  decide (f.unsampled = false ∧ raw ≠ f.level ∧ time ≤ f.diff)

theorem Filt.sample_eq (time : Nat) (raw : Bool) (f : Filt) : f.sample time raw = (f.after time raw, f.changes time raw) := by
  unfold Filt.sample Filt.after Filt.changes
  by_cases first : f.unsampled = true
  · simp [first, Filt.ofSample]
  · have sampled : f.unsampled = false := by simpa using first
    by_cases agrees : raw = f.level
    · simp [sampled, agrees]
    · by_cases lasted : time ≤ f.diff <;> simp [sampled, agrees, lasted]

/-- A difference that has not yet lasted is counted (R1, R20, R122). -/
theorem Filt.sample_counts {time : Nat} {raw : Bool} {f : Filt} (sampled : f.unsampled = false) (differs : raw ≠ f.level)
    (short : f.diff < time) : f.sample time raw = ({ f with diff := f.diff + 1 }, false) := by
  simp [Filt.sample, sampled, differs, short]

/-- A difference that has lasted for the filter time is taken. -/
theorem Filt.sample_takes {time : Nat} {raw : Bool} {f : Filt} (sampled : f.unsampled = false) (differs : raw ≠ f.level)
    (lasted : time ≤ f.diff) : f.sample time raw = (f, true) := by
  simp [Filt.sample, sampled, differs, lasted]

/-- A raw level that keeps differing is counted, sample by sample, up to the filter time. -/
theorem Filt.iterate_sample (time : Nat) (raw : Bool) : ∀ (k : Nat) (f : Filt), f.unsampled = false → raw ≠ f.level →
    k ≤ time - f.diff → (fun h : Filt => (h.sample time raw).1)^[k] f = { f with diff := f.diff + k }
  | 0, _, _, _, _ => rfl
  | k + 1, f, sampled, differs, within => by
    rw [Function.iterate_succ_apply, Filt.sample_counts sampled differs (by omega),
      Filt.iterate_sample time raw k { f with diff := f.diff + 1 } sampled differs (by dsimp only; omega)]
    simp only [Filt.mk.injEq, true_and, and_true]
    omega

/-- Settles O4: the count of differing samples rises by one at each, so it reaches the filter time at the sample named and at no
earlier one. -/
theorem filterTakesALevelThatHasLasted : Obligations.FilterTakesALevelThatHasLasted := by
  refine ⟨fun time raw f sampled differs within k hk => ?_, fun time raw f sampled agrees => ?_,
    fun time raw f first => ?_⟩
  · dsimp only
    rw [Filt.iterate_sample time raw k f sampled differs hk]
    refine ⟨rfl, ?_⟩
    by_cases last : k = time - f.diff
    · rw [Filt.sample_takes (f := { f with diff := f.diff + k }) sampled differs (by dsimp only; omega),
        decide_eq_true last]
    · rw [Filt.sample_counts (f := { f with diff := f.diff + k }) sampled differs (by dsimp only; omega),
        decide_eq_false last]
  · have same : f = { level := f.level, diff := f.diff } := by cases f; simp_all
    rw [same] at agrees ⊢
    simp [Filt.sample, agrees]
  · simp [Filt.sample, first, Filt.ofSample]

/-! ### The samples of one tick -/

theorem advanceClock_eq (s : State) : advanceClock s = s.withClock
    (if s.fine + 1 < 32 then s.partTime else s.partTime + 1#32) (if s.fine + 1 < 32 then s.fine + 1 else 0) := by
  unfold advanceClock
  split <;> rfl

theorem takeSample_eq (s : State) :
    takeSample s = (s.withSamples s.samples.tail).withPins (s.samples.headD s.pins) := by
  unfold takeSample
  split
  · rename_i none
    rw [none, List.tail_nil, List.headD_nil, ← none]
    rfl
  · rename_i more
    rw [more]
    rfl

/-- LEI after the samples of the encoder inputs (R1, R14). -/
def Lei.sampled (p : Pins) (l : Lei) : Lei :=
  { l with
    encA := l.encA.after l.cfg.filter p.encA, encB := l.encB.after l.cfg.filter p.encB
    encZ := if l.encZ.changes l.cfg.filter p.encZ = true ∧ p.encZ = false then { level := false, diff := 0 }
      else l.encZ.after l.cfg.filter p.encZ }

/-- A sense input after a sample (R20). -/
def SenseInput.sampled (raw : Bool) (i : SenseInput) : SenseInput := { i with filt := i.filt.after (i.filterUs * 32) raw }

/-- The events of the encoder inputs at a sample (R2, R3, R14). -/
def Lei.edges (p : Pins) (l : Lei) : List Instr :=
  (match l.encA.changes l.cfg.filter p.encA, l.encB.changes l.cfg.filter p.encB with
    | true, true => [.illegalTransition]
    | true, false => [.count .a]
    | false, true => [.count .b]
    | false, false => []) ++
  (if l.encZ.changes l.cfg.filter p.encZ = true ∧ p.encZ = true then [.indexEdge] else [])

theorem sampleEncoder_eq (s : State) :
    sampleEncoder s = (s.withLei (s.lei.sampled s.pins), s.lei.edges s.pins) := by
  unfold sampleEncoder Lei.sampled Lei.edges
  simp only [Filt.sample_eq, Bool.and_eq_true, Bool.not_eq_true', Filt.ofSample] <;> rfl

theorem sampleSense_eq (i : Fin 4) (s : State) : sampleSense i s =
    (s.withSns (s.sns.set i ((s.sns[i]).sampled s.pins.sn[i])),
      if (s.sns[i]).filt.changes ((s.sns[i]).filterUs * 32) s.pins.sn[i] = true then [.senseEdge i] else []) := by
  unfold sampleSense SenseInput.sampled
  simp only [Filt.sample_eq]

theorem sampleFlt_eq (s : State) : sampleFlt s =
    (s.withRun { s.run with flt := s.run.flt.after 320 s.pins.fltIn },
      if s.run.flt.changes 320 s.pins.fltIn = true then
        [if s.pins.fltIn = true then .fltInRelease else .fltInActivation] else []) := by
  unfold sampleFlt
  simp only [Filt.sample_eq, fltFilter]

/-- The events of the four sense inputs at a sample, in ascending order (R20). -/
def senseEdges (p : Pins) (v : Vector SenseInput 4) : List Instr :=
  ((List.finRange 4).filter fun i => (v[i]).filt.changes ((v[i]).filterUs * 32) p.sn[i]).map .senseEdge

/-- The events of FLT_IN at a sample (R122). -/
def fltEdges (p : Pins) (f : Filt) : List Instr :=
  if f.changes 320 p.fltIn = true then [if p.fltIn = true then .fltInRelease else .fltInActivation] else []

/-- The state after the samples of one tick. -/
def sampledState (s : State) : State :=
  (((s.withLei (s.lei.sampled s.pins)).withSns
      ((((s.sns.set 0 ((s.sns[0]).sampled s.pins.sn[0])).set 1 ((s.sns[1]).sampled s.pins.sn[1])).set 2
        ((s.sns[2]).sampled s.pins.sn[2])).set 3 ((s.sns[3]).sampled s.pins.sn[3]))).withRun
    { s.run with flt := s.run.flt.after 320 s.pins.fltIn }).withSlk
    { s.slk with rx := { s.slk.rx with line := (s.slk.rx.line.sample s.slk.rate s.pins.rxd).1 } }

theorem sampledState_sns (s : State) (i : Fin 4) : (sampledState s).sns[i] = (s.sns[i]).sampled s.pins.sn[i] := by
  fin_cases i <;> simp [sampledState]

theorem senseEdges_eq (p : Pins) (v : Vector SenseInput 4) : senseEdges p v =
    (if (v[0]).filt.changes ((v[0]).filterUs * 32) p.sn[0] = true then [.senseEdge 0] else []) ++
    ((if (v[1]).filt.changes ((v[1]).filterUs * 32) p.sn[1] = true then [.senseEdge 1] else []) ++
    ((if (v[2]).filt.changes ((v[2]).filterUs * 32) p.sn[2] = true then [.senseEdge 2] else []) ++
    (if (v[3]).filt.changes ((v[3]).filterUs * 32) p.sn[3] = true then [.senseEdge 3] else []))) := by
  have four : List.finRange 4 = [0, 1, 2, 3] := by decide
  unfold senseEdges
  rw [four]
  simp only [List.filter_cons, List.filter_nil]
  split <;> split <;> split <;> split <;> simp_all

/-- The events of the samples of one tick. -/
def sampledEvents (s : State) : List Instr :=
  s.lei.edges s.pins ++ senseEdges s.pins s.sns ++ fltEdges s.pins s.run.flt ++
    (s.slk.rx.line.sample s.slk.rate s.pins.rxd).2.toList.map .receiveByte

/-- The samples of one tick: each input through its own filter, RXD at the byte receiver, with the events that follow. -/
theorem sampleAll_samplers (s : State) : sampleAll samplers s = (sampledState s, sampledEvents s) := by
  unfold sampledEvents
  rw [senseEdges_eq]
  unfold samplers allInputs
  simp only [List.map_cons, List.map_nil, List.cons_append, List.nil_append, sampleAll, sampleEncoder_eq, sampleSense_eq,
    sampleFlt_eq, sampleRxd, modRx]
  simp [sampledState, fltEdges] <;> rfl

/-! ### The events of the deadlines -/

theorem Lei.subStepDue_iff {mode : Mode} {l : Lei} : l.subStepDue mode = true ↔ l.subTimer = some 0 ∧ l.motion = .forward ∧
    l.valid = true ∧ l.position = l.reach ∧ l.sub + 1 < 2 ^ l.cfg.s ∧ mode ≠ .fault := by
  simp [Lei.subStepDue, Lei.subStepsOn, Lei.atFrontier, and_assoc]

theorem Lei.standstillDue_iff {now : Time} {l : Lei} :
    l.standstillDue now = true ↔ ∃ since ∈ l.standstill, l.cfg.standstillMs * 1000 ≤ (now - since).toNat := by
  unfold Lei.standstillDue
  cases l.standstill <;> simp

theorem deadlineMet_iff {deadline : Option Time} {now : Time} :
    deadlineMet deadline now = true ↔ ∃ d ∈ deadline, atOrBeyond now d = true := by
  unfold deadlineMet
  cases deadline <;> simp

theorem State.maxOnDue_iff {s : State} {b : Fin 2} {n : Fin 16} : s.maxOnDue b n = true ↔
    (s.station b n).run.on = true ∧ ∃ d ∈ (s.station b n).run.maxOn, atOrBeyond s.partTime d = true := by
  unfold State.maxOnDue
  cases (s.station b n).run.maxOn <;> simp

theorem State.drainDue_iff {s : State} :
    s.drainDue = true ↔ s.run.mode = .stopping ∧ ∃ d ∈ s.run.drain, atOrBeyond s.partTime d = true := by
  simp [State.drainDue, deadlineMet_iff]

theorem State.gapDue_iff {s : State} : s.gapDue = true ↔ s.slk.rx.phase ≠ .hunt ∧
    s.slk.rx.line.quiet s.sched.gapFirst = true ∧ ∃ since ∈ s.slk.rx.gapFrom, 2000 ≤ (s.partTime - since).toNat := by
  unfold State.gapDue Rx.gapDue
  cases s.slk.rx.gapFrom <;> simp [and_assoc]

theorem State.trialDue_iff {s : State} :
    s.trialDue = true ↔ s.slk.link = .trial ∧ ∃ d ∈ s.slk.trialDeadline, atOrBeyond s.partTime d = true := by
  simp [State.trialDue, deadlineMet_iff]

theorem Frame.bytes_length (f : Frame) : f.bytes.length = f.payload.length + 6 := by
  simp [Frame.bytes, Frame.checked, be2]

/-- The event that the end of the frame in transmission is, once its bits have left TXD (R136, R161, R162). -/
theorem Tx.end_events (t : Tx) : (if t.done then t.endEvent else []) = (match t with
    | .idle => []
    | .sending f q role ticks =>
      if 10 * (f.payload.length + 6) ≤ bitsIn q ticks then
        [match role with
          | .plain => .transmitEnd
          | .rateChange _ => .linkRateChange
          | .partReset => .softReset]
      else []) := by
  cases t with
  | idle => rfl
  | sending f q role ticks =>
    simp only [Tx.done, Frame.bytes_length, decide_eq_true_eq]
    cases role <;> rfl

theorem ite_congr_prop {α : Type} {p : Bool} {q : Prop} [Decidable q] (h : p = true ↔ q) (x y : α) :
    (if p = true then x else y) = if q then x else y := by
  simp only [h]

theorem filter_congr_prop {α : Type} {p : α → Bool} {q : α → Prop} [DecidablePred q] (h : ∀ x, p x = true ↔ q x)
    (l : List α) : l.filter p = l.filter fun x => decide (q x) :=
  List.filter_congr fun x _ => by rw [Bool.eq_iff_iff, h, decide_eq_true_iff]

/-! ### One fine tick -/

/-- The clock, the timers and the transmitter after one tick, before its samples (R6, R7, R149). -/
def tickStart (s : State) : State :=
  ((s.withClock (if s.fine + 1 < 32 then s.partTime else s.partTime + 1#32)
    (if s.fine + 1 < 32 then s.fine + 1 else 0)).withLei s.lei.tick).withSlk { s.slk with tx := s.slk.tx.tick }

/-- Every event that a tick finds. -/
def tickEvents (s : State) : List Instr := sampledEvents (tickStart s) ++ dueEvents (sampledState (tickStart s))

theorem runTick_eq (s : State) : runTick s = (sampledState (tickStart s)).withPending
    (s.pending ++ upToReset (arrange s.sched.events (tickEvents s))) := by
  have start : ((advanceClock s).withLei (advanceClock s).lei.tick).withSlk
      { (advanceClock s).slk with tx := (advanceClock s).slk.tx.tick } = tickStart s := by
    rw [advanceClock_eq]; rfl
  unfold runTick tickEvents
  dsimp only
  rw [start, sampleAll_samplers]
  rfl

/-- What a tick queues is what it finds, in some order, up to a soft reset among it (log 7). -/
theorem upToReset_arrange (ks : List Nat) (found : List Instr) :
    (.softReset ∉ found → (upToReset (arrange ks found)).Perm found) ∧
    (.softReset ∈ found → ∃ before after, (before ++ .softReset :: after).Perm found ∧
      upToReset (arrange ks found) = before ++ [.softReset]) := by
  have perm := arrange_perm ks found
  refine ⟨fun absent => ?_, fun present => ?_⟩
  · rw [upToReset_eq fun mem => absent (perm.mem_iff.mp mem)]
    exact perm
  · obtain ⟨before, after, split, first⟩ := List.eq_append_cons_of_mem (perm.mem_iff.mpr present)
    rw [split] at perm ⊢
    exact ⟨before, after, perm, upToReset_append after first⟩

/-- The time-driven events, condition by condition (R7, R9, R78, R79, R128, R154, R161, R163). -/
theorem dueEvents_eq (t : State) : dueEvents t =
    (if t.lei.subTimer = some 0 ∧ t.lei.motion = .forward ∧ t.lei.valid = true ∧ t.lei.position = t.lei.reach ∧
        t.lei.sub + 1 < 2 ^ t.lei.cfg.s ∧ t.run.mode ≠ .fault then [.subStep] else []) ++
    ((if ∃ since ∈ t.lei.standstill, t.lei.cfg.standstillMs * 1000 ≤ (t.partTime - since).toNat then
      [.standstillWatchExpiry] else []) ++
    ((stationPlaces.filter fun n => decide ((t.station n.1 n.2).run.on = true ∧
      ∃ d ∈ (t.station n.1 n.2).run.maxOn, atOrBeyond t.partTime d = true)).map
        (fun n => .maxOnDeadlineExpiry n.1 n.2) ++
    ((stationPlaces.filter fun n => decide ((t.station n.1 n.2).run.on = true ∧
      (t.station n.1 n.2).run.endKind = .time ∧
      atOrBeyond t.partTime (t.station n.1 n.2).run.endTarget = true)).map (fun n => .timePulseEnd n.1 n.2) ++
    ((if t.run.mode = .stopping ∧ ∃ d ∈ t.run.drain, atOrBeyond t.partTime d = true then [.drainDeadlineExpiry] else []) ++
    ((if t.slk.rx.phase ≠ .hunt ∧ t.slk.rx.line.quiet t.sched.gapFirst = true ∧
        ∃ since ∈ t.slk.rx.gapFrom, 2000 ≤ (t.partTime - since).toNat then [.gapWatchExpiry] else []) ++
    ((if t.slk.link = .trial ∧ ∃ d ∈ t.slk.trialDeadline, atOrBeyond t.partTime d = true then
      [.trialDeadlineExpiry] else []) ++
    (match t.slk.tx with
      | .idle => []
      | .sending f q role ticks =>
        if 10 * (f.payload.length + 6) ≤ bitsIn q ticks then
          [match role with
            | .plain => .transmitEnd
            | .rateChange _ => .linkRateChange
            | .partReset => .softReset]
        else []))))))) := by
  unfold dueEvents
  rw [Tx.end_events, ite_congr_prop Lei.subStepDue_iff, ite_congr_prop Lei.standstillDue_iff,
    ite_congr_prop State.drainDue_iff, ite_congr_prop State.gapDue_iff, ite_congr_prop State.trialDue_iff,
    filter_congr_prop (p := fun p : Fin 2 × Fin 16 => t.maxOnDue p.1 p.2) fun _ => State.maxOnDue_iff,
    filter_congr_prop (p := fun p : Fin 2 × Fin 16 => t.timeEndDue p.1 p.2) fun _ => State.timeEndDue_iff, stationPlaces_eq]
  simp only [List.append_assoc] <;> rfl

/-- Settles O2: a tick is its samples, its deadlines and their order in the queue. -/
theorem emptyQueueStepIsOneFineTick : Obligations.EmptyQueueStepIsOneFineTick := by
  intro s empty high
  refine ⟨fun can => ?_, fun cannot stays => ?_⟩
  · simp [step, empty, idleStep, State.held_of_high high, can]
  · refine ⟨runTick (takeSample s), ?_, ?_⟩
    · have h1 : (takeSample s).held = false := State.held_of_high (by rw [takeSample_eq]; exact stays)
      simp [step, empty, idleStep, fineTick, State.held_of_high high, cannot, h1]
    · rw [runTick_eq, takeSample_eq]
      set u := (s.withSamples s.samples.tail).withPins (s.samples.headD s.pins) with hu
      have pend : u.pending = [] := empty
      refine ⟨rfl, rfl, rfl, rfl, rfl, rfl, fun i => sampledState_sns _ i, rfl, rfl, rfl, rfl, rfl, rfl, ?_, ?_⟩
      · show ({ s.slk with rx := { s.slk.rx with line := _ }, tx := s.slk.tx.tick } : Slk) = _
        congr 1
      have queued := upToReset_arrange u.sched.events (tickEvents u)
      rw [pend]
      intro found
      have same : tickEvents u = found := by
        unfold tickEvents
        rw [dueEvents_eq]
        simp only [found, sampledEvents, Lei.edges, senseEdges, fltEdges, List.append_assoc]
        rfl
      rw [← same]
      exact queued

end Sys2Proof.Machine
end

section
/-! What every command keeps of the link's queues and of what lies outside the part. -/

namespace Sys2Proof.Machine

/-- The states agree in the link's queues, the notice queue, the commands and inputs to come and the free orders, and RESETN has
not gone low. -/
structure SameOutside (s t : State) : Prop where
  pending : t.pending = s.pending
  samples : t.samples = s.samples
  sched : t.sched = s.sched
  resetn : s.pins.resetn = true → t.pins.resetn = true
  notices : t.ntq.queue = s.ntq.queue
  requests : t.slk.requests = s.slk.requests
  responses : t.slk.responses = s.slk.responses

theorem SameOutside.refl (s : State) : SameOutside s s := ⟨rfl, rfl, rfl, id, rfl, rfl, rfl⟩

theorem SameOutside.trans {s t u : State} (h : SameOutside s t) (k : SameOutside t u) : SameOutside s u :=
  ⟨k.pending.trans h.pending, k.samples.trans h.samples, k.sched.trans h.sched, fun high => k.resetn (h.resetn high),
    k.notices.trans h.notices, k.requests.trans h.requests, k.responses.trans h.responses⟩

theorem dropCursors_outside (s : State) : SameOutside s (dropCursors s) := ⟨rfl, rfl, rfl, id, rfl, rfl, rfl⟩

theorem actuatorsOff_outside (s : State) : SameOutside s (actuatorsOff s) := ⟨rfl, rfl, rfl, id, rfl, rfl, rfl⟩

/-- From s to t: something of the blocks' own state changes, and then the blocks act. -/
def ChangeThenActs (s t : State) : Prop := ∃ u, SameOutside s u ∧ ∃ p, Acts p u t

theorem ChangeThenActs.of_same {s t : State} (h : SameOutside s t) : ChangeThenActs s t := ⟨t, h, .tracking, .refl t⟩

theorem ChangeThenActs.of_acts {p : Power} {s t : State} (h : Acts p s t) : ChangeThenActs s t := ⟨s, .refl s, p, h⟩

theorem ChangeThenActs.offer {s t : State} (h : ChangeThenActs s t) (body : NoticeBody) :
    ChangeThenActs s (t.offer body) := by
  obtain ⟨u, same, p, acts⟩ := h
  exact ⟨u, same, p, .trans acts (.offer _ _)⟩

theorem commitBank_changes (b : Fin 2) (s : State) : ChangeThenActs s (commitBank b s) := by
  unfold commitBank commitDirect State.offerBank
  split
  · refine ChangeThenActs.offer (.of_same ?_) _
    exact ⟨rfl, rfl, rfl, id, rfl, rfl, rfl⟩
  · exact .of_same ⟨rfl, rfl, rfl, id, rfl, rfl, rfl⟩

theorem activateAtConfigure_changes {s u : State} (same : SameOutside s u) : ChangeThenActs s (activateAtConfigure u) := by
  obtain ⟨h1, h2, h3, h4, h5, h6, h7⟩ := same
  unfold activateAtConfigure State.offerBank
  split
  · exact .of_same ⟨h1, h2, h3, h4, h5, h6, h7⟩
  · refine ChangeThenActs.offer (.of_same ?_) _
    exact ⟨h1, h2, h3, h4, h5, h6, h7⟩

theorem enterConfigure_changes (reason : ModeReason) (gone : Removed) (s : State) :
    ChangeThenActs s (enterConfigure reason gone s) := by
  unfold enterConfigure State.offerMode
  dsimp only
  refine ChangeThenActs.offer (activateAtConfigure_changes ?_) _
  have configured : SameOutside s (s.withRun { s.run with mode := .configure, drain := none }) :=
    ⟨rfl, rfl, rfl, id, rfl, rfl, rfl⟩
  have dropped := (configured.trans (actuatorsOff_outside _)).trans (dropCursors_outside _)
  exact ⟨dropped.pending, dropped.samples, dropped.sched, dropped.resetn, dropped.notices, dropped.requests,
    dropped.responses⟩

theorem removeItems_outside (s : State) : SameOutside s (removeItems s).1 :=
  (dropCursors_outside s).trans ⟨rfl, rfl, rfl, id, rfl, rfl, rfl⟩

theorem ChangeThenActs.after {s t u : State} (same : SameOutside s t) (h : ChangeThenActs t u) : ChangeThenActs s u := by
  obtain ⟨v, same', acts⟩ := h
  exact ⟨v, same.trans same', acts⟩

theorem flushTo_changes (reason : ModeReason) (s : State) : ChangeThenActs s (flushTo reason s) :=
  .after (removeItems_outside s) (enterConfigure_changes reason _ _)

theorem startDrain_changes (limit : Nat) (s : State) : ChangeThenActs s (startDrain limit s) := by
  obtain ⟨drain, acts⟩ := startDrain_acts limit s
  exact ⟨(s.withRun { s.run with mode := .stopping, drain := drain }).withMkd s.mkd.toIdle,
    ⟨rfl, rfl, rfl, id, rfl, rfl, rfl⟩, .settling, .trans (.offer _ _) acts⟩

theorem editBank_changes (p : List Byte) (f : Bank → Bank) (s : State) : ChangeThenActs s (editBank p f s).1 := by
  rcases edit_cases p f s with same | ⟨-, edited⟩
  · rw [same]; exact .of_same (.refl s)
  · rw [edited]; exact .of_same ⟨rfl, rfl, rfl, id, rfl, rfl, rfl⟩

theorem runBankCommit_changes (p : List Byte) (s : State) : ChangeThenActs s (runBankCommit p s).1 := by
  unfold runBankCommit
  dsimp only
  split
  · exact .of_same (.refl s)
  · exact .of_same (.refl s)
  · exact .of_same (.refl s)
  · split
    · exact .of_same (.refl s)
    · exact commitBank_changes _ s

theorem runBankCancel_changes (p : List Byte) (s : State) : ChangeThenActs s (runBankCancel p s).1 := by
  unfold runBankCancel
  dsimp only
  split
  · exact .of_same ⟨rfl, rfl, rfl, id, rfl, rfl, rfl⟩
  · split <;> exact .of_same (.refl s)
  · exact .of_same (.refl s)

theorem runRunStart_changes (s : State) : ChangeThenActs s (runRunStart s).1 := by
  unfold runRunStart
  split
  · exact .of_same (.refl s)
  · split
    · exact .of_same (.refl s)
    · show ChangeThenActs s (startRun s)
      unfold startRun State.offerMode
      refine ChangeThenActs.offer (.of_same ?_) _
      exact ⟨rfl, rfl, rfl, id, rfl, rfl, rfl⟩

theorem runRunStop_changes (p : List Byte) (s : State) : ChangeThenActs s (runRunStop p s).1 := by
  unfold runRunStop runDrain runFlush
  split
  · split
    · exact .of_same (.refl s)
    · exact startDrain_changes _ s
  · exact flushTo_changes _ s

theorem runFaultClear_changes (s : State) : ChangeThenActs s (runFaultClear s).1 := by
  unfold runFaultClear
  split
  · exact .of_same (.refl s)
  · refine .after (t := s.withRun { s.run with faults := .empty, first := none }) ?_ (flushTo_changes .cleared _)
    exact ⟨rfl, rfl, rfl, id, rfl, rfl, rfl⟩

/-- The action of a command changes the blocks' own state, and lets them act; it touches no queue of the link itself. -/
theorem Cmd.run_changes (c : Cmd) (p : List Byte) (s : State) (mode : c.takenIn s.run.mode = true) :
    ChangeThenActs s (c.run p s).1 := by
  cases c with
  | ident => exact .of_same (.refl s)
  | status => exact .of_same (.refl s)
  | linkSet =>
    refine .of_same ?_
    show SameOutside s (runLinkSet p s).1
    unfold runLinkSet endTrialFirst
    dsimp only
    split <;> split <;> exact ⟨rfl, rfl, rfl, id, rfl, rfl, rfl⟩
  | linkStatus =>
    refine .of_same ?_
    show SameOutside s (runLinkStatus p s).1
    unfold runLinkStatus
    dsimp only
    split <;> exact ⟨rfl, rfl, rfl, id, rfl, rfl, rfl⟩
  | partReset => exact .of_same (.refl s)
  | lineSet => exact .of_same ⟨rfl, rfl, rfl, id, rfl, rfl, rfl⟩
  | posSet => exact .of_same ⟨rfl, rfl, rfl, id, rfl, rfl, rfl⟩
  | senseSet => exact .of_same ⟨rfl, rfl, rfl, id, rfl, rfl, rfl⟩
  | markSet => exact .of_same ⟨rfl, rfl, rfl, id, rfl, rfl, rfl⟩
  | stnWrite => exact editBank_changes p _ s
  | stnRead => exact .of_same (.refl s)
  | chkWrite => exact editBank_changes p _ s
  | chkRead => exact .of_same (.refl s)
  | bankParam => exact editBank_changes p _ s
  | bankCommit => exact runBankCommit_changes p s
  | bankCancel => exact runBankCancel_changes p s
  | linesSet =>
    obtain ⟨v, hv⟩ := foldLines allStationNos (fun n l => { l with polarity := linePolarity (num2 p 0) n }) s
    have run : (runLinesSet p s).1 = s.withAct v := hv
    show ChangeThenActs s (runLinesSet p s).1
    rw [run]
    exact .of_same ⟨rfl, rfl, rfl, id, rfl, rfl, rfl⟩
  | outForce => exact .of_same ⟨rfl, rfl, rfl, id, rfl, rfl, rfl⟩
  | runStart => exact runRunStart_changes s
  | runStop => exact runRunStop_changes p s
  | faultClear => exact runFaultClear_changes s
  | itemTag => exact .of_acts (tag_acts p s)
  | itemVerdict => exact .of_acts (verdict_acts p s)
  | itemInject => exact .of_acts (inject_acts s (beq_iff_eq.mp mode))
  | queueRead => exact .of_same (.refl s)
  | noticeClass => exact .of_same ⟨rfl, rfl, rfl, id, rfl, rfl, rfl⟩

/-- A request that is refused at steps 1 to 4 changes nothing; one that passes them is the action of its command (R158). -/
theorem execute_changes (r : Request) (s : State) : ChangeThenActs s (execute r s).1 := by
  unfold execute
  split
  · exact .of_same (.refl s)
  · rename_i c hr hc
    refine Cmd.run_changes c _ s ?_
    unfold refusal at hr
    rw [hc] at hr
    dsimp only at hr
    split at hr
    · cases hr
    · split at hr
      · assumption
      · cases hr
  · exact .of_same (.refl s)

/-! ### Conditions on what lies outside the tracking core -/

/-- A condition that the blocks' acts, the transmitter, resets, and each move of a request or a response keep. -/
structure KeptByMoves (P : State → Prop) : Prop where
  still : ∀ {s t : State}, SameOutside s t → P s → P t
  acts : ∀ {p : Power} {s t : State}, Acts p s t → P s → P t
  serve : ∀ {s : State}, P s → P (serve s)
  reset : ∀ {s : State} (rate : Fin 6), P s → P (State.atReset s.pending s.pins s.samples s.sched rate)
  wait : ∀ {s : State} (r : Request), s.slk.requests.length < Config.linkCapacity → P s →
    P (s.withSlk { s.slk with requests := s.slk.requests ++ [r] })
  push : ∀ {s : State} (r : Response), s.slk.responses.length < Config.linkCapacity → P s → P (pushResponse r s)
  perform : ∀ {s : State} (r : Request) (rest : List Request), s.slk.requests = r :: rest →
    s.slk.responses.length < Config.linkCapacity → P s → P (perform r (s.withSlk { s.slk with requests := rest }))

variable {P : State → Prop}

theorem ChangeThenActs.moves (k : KeptByMoves P) {s t : State} (h : ChangeThenActs s t) (hs : P s) : P t := by
  obtain ⟨u, same, p, acts⟩ := h
  exact k.acts acts (k.still same hs)

theorem executeLoop_moves (k : KeptByMoves P) : ∀ (fuel : Nat) (s : State), P s → P (executeLoop fuel s)
  | 0, _, h => h
  | fuel + 1, s, h => by
    unfold executeLoop
    split
    · rename_i can
      simp only [State.canExecute, Bool.and_eq_true, decide_eq_true_eq] at can
      refine executeLoop_moves k fuel _ (k.serve ?_)
      unfold executeHead
      split
      · exact h
      · rename_i r rest waiting
        exact k.perform r rest waiting can.1.2 h
    · exact h

theorem executeWaiting_moves (k : KeptByMoves P) {s : State} (h : P s) : P (executeWaiting s) := executeLoop_moves k _ s h

theorem finishLink_moves (k : KeptByMoves P) {s : State} (h : P s) : P (finishLink s) := by
  unfold finishLink
  dsimp only
  split
  · exact k.serve h
  · exact executeWaiting_moves k (k.serve h)

theorem dispatch_moves (k : KeptByMoves P) (r : Request) {s : State} (h : P s) : P (dispatch r s) := by
  unfold dispatch
  split
  · rename_i room; exact k.wait r room h
  · split
    · rename_i room; exact k.push _ room.2 h
    · exact k.still (s := s) ⟨rfl, rfl, rfl, id, rfl, rfl, rfl⟩ h

theorem submit_moves (k : KeptByMoves P) (r : Request) {s : State} (h : P s) : P (submit r s) :=
  executeWaiting_moves k (k.serve (dispatch_moves k r h))

theorem resetTo_moves (k : KeptByMoves P) (kind : ResetKind) (rate : Fin 6) {s : State} (h : P s) :
    P (resetTo kind rate s) := by
  unfold resetTo State.offerMode
  exact k.serve (k.acts (p := .tracking) (.offer _ _) (k.reset rate h))

theorem frameEnd_moves (k : KeptByMoves P) {s : State} (h : P s) : P (frameEnd s) := by
  unfold frameEnd
  split
  · exact h
  · have idle : P (s.withSlk { s.slk with tx := .idle }) := k.still (s := s) ⟨rfl, rfl, rfl, id, rfl, rfl, rfl⟩ h
    dsimp only
    split
    · exact finishLink_moves k idle
    · exact finishLink_moves k (k.still (s := s.withSlk { s.slk with tx := .idle }) ⟨rfl, rfl, rfl, id, rfl, rfl, rfl⟩ idle)
    · exact resetTo_moves k _ _ idle

theorem goodFrame_moves (k : KeptByMoves P) {s : State} (h : P s) : P (goodFrame s) := by
  unfold goodFrame
  split
  · refine dispatch_moves k _ ?_
    unfold endTrialAtFrame
    split
    · exact k.still (s := s) ⟨rfl, rfl, rfl, id, rfl, rfl, rfl⟩ h
    · exact h
  · exact h

theorem receiveAt_moves (k : KeptByMoves P) (rate : Fin 6) (v : Byte) {s : State} (h : P s) : P (receiveAt rate v s) := by
  have rx : ∀ l : Slk, l.requests = s.slk.requests → l.responses = s.slk.responses → P (s.withSlk l) :=
    fun l e e' => k.still (s := s) ⟨rfl, rfl, rfl, id, rfl, e, e'⟩ h
  unfold receiveAt
  split
  · split
    · exact rx _ rfl rfl
    · exact h
  · split
    · exact rx _ rfl rfl
    · exact rx _ rfl rfl
  · exact rx _ rfl rfl
  · split
    · exact rx _ rfl rfl
    · unfold checkFrame
      dsimp only
      split
      · exact goodFrame_moves k (rx _ rfl rfl)
      · exact rx { s.slk with rx := s.slk.rx.hunt, crcErrors := bump s.slk.crcErrors } rfl rfl

theorem takePhase_moves (k : KeptByMoves P) (phase : Phase) {s : State} (idle : s.detectorIdle) (h : P s) :
    P (takePhase phase s) := by
  have toggled : P (togglePhase phase s) := by
    unfold togglePhase
    split <;> exact k.still (s := s) ⟨rfl, rfl, rfl, id, rfl, rfl, rfl⟩ h
  cases counts : s.countOf phase with
  | none => rw [takePhase_still phase s counts]; exact toggled
  | some d =>
    rw [takePhase_counts phase d s counts]
    have idle' : (togglePhase phase s).detectorIdle := by
      obtain ⟨run, mkd, -, -⟩ := togglePhase_rest phase s
      unfold State.detectorIdle
      rw [run, mkd]; exact idle
    exact k.acts (leiEvent_acts _ _ _ idle') (k.still (s := togglePhase phase s) ⟨rfl, rfl, rfl, id, rfl, rfl, rfl⟩ toggled)

theorem takeIndex_moves (k : KeptByMoves P) {s : State} (h : P s) : P (takeIndex s) := by
  have marked : P (s.withLei s.lei.markIndex) := k.still (s := s) ⟨rfl, rfl, rfl, id, rfl, rfl, rfl⟩ h
  have reported : ∀ (c : Bool) body,
      P (if c then (s.withLei s.lei.markIndex).offer body else s.withLei s.lei.markIndex) := fun c body => by
    split
    · exact k.acts (p := .tracking) (.offer _ _) marked
    · exact marked
  unfold takeIndex
  split
  · dsimp only
    split
    · exact k.acts (raiseCause_acts _ _) (reported _ _)
    · exact reported _ _
  · exact h

theorem unlessHeld_moves {f : State → State} {s t : State} (h : P s) (hf : P (f s)) (ht : unlessHeld f s = .next t) : P t :=
  unlessHeld_keeps h hf ht

/-- Every command keeps a condition that the moves keep, the detector being IDLE outside RUN. -/
theorem exec_moves (k : KeptByMoves P) (i : Instr) (s t : State) (idle : s.detectorIdle) (h : P s)
    (ht : exec i s = .next t) : P t := by
  cases hr : requestOf i with
  | some r =>
    rw [exec_submit hr] at ht
    exact unlessHeld_keeps h (submit_moves k r h) ht
  | none =>
    have released : P (releaseReset s) := k.still (s := s) ⟨rfl, rfl, rfl, fun _ => rfl, rfl, rfl, rfl⟩ h
    cases i <;> simp only [requestOf, reduceCtorEq] at hr <;> simp only [exec] at ht
    case powerOnReset => cases ht; exact resetTo_moves k _ _ released
    case pinReset => cases ht; exact resetTo_moves k _ _ released
    all_goals refine unlessHeld_keeps h ?_ ht; try dsimp only
    case softReset => split; exacts [frameEnd_moves k h, h]
    case count phase => exact k.serve (takePhase_moves k phase idle h)
    case illegalTransition =>
      refine k.serve ?_
      have ended : P ((togglePhase .b (togglePhase .a s)).withLei (togglePhase .b (togglePhase .a s)).lei.endRun) :=
        k.still (s := s) ⟨rfl, rfl, rfl, id, rfl, rfl, rfl⟩ h
      unfold takeIllegal
      dsimp only
      split
      · exact k.acts (raiseCause_acts _ _) ended
      · exact k.acts (p := .tracking) (.offer _ _) ended
    case indexEdge =>
      exact k.serve (takeIndex_moves k (s := raiseZ s) (k.still (s := s) ⟨rfl, rfl, rfl, id, rfl, rfl, rfl⟩ h))
    case subStep =>
      split
      · exact k.serve (k.acts (leiEvent_acts _ _ _ idle) (k.still (s := s) ⟨rfl, rfl, rfl, id, rfl, rfl, rfl⟩ h))
      · exact h
    case standstillWatchExpiry =>
      split
      · exact k.serve (k.acts (leiEvent_acts _ _ _ idle) (k.still (s := s) ⟨rfl, rfl, rfl, id, rfl, rfl, rfl⟩ h))
      · exact h
    case senseEdge input =>
      exact k.serve (k.acts (edge_acts _ _ _ _ idle) (k.still (s := s) (t := toggleSense input s) ⟨rfl, rfl, rfl, id, rfl, rfl, rfl⟩ h))
    case fltInActivation =>
      split
      · exact h
      · exact k.serve (k.acts (raiseCause_acts _ _) (k.still (s := s) (t := setFlt false s) ⟨rfl, rfl, rfl, id, rfl, rfl, rfl⟩ h))
    case fltInRelease =>
      split
      · exact k.serve (k.still (s := s) (t := setFlt true s) ⟨rfl, rfl, rfl, id, rfl, rfl, rfl⟩ h)
      · exact h
    case maxOnDeadlineExpiry b n => split; exacts [k.serve (k.acts (p := .tracking) (endPulseOf_acts _ _ _ _) h), h]
    case timePulseEnd b n => split; exacts [k.serve (k.acts (p := .tracking) (endPulseOf_acts _ _ _ _) h), h]
    case drainDeadlineExpiry => split; exacts [k.serve ((flushTo_changes _ s).moves k h), h]
    case receiveByte v =>
      exact finishLink_moves k (receiveAt_moves k _ v (k.still (s := s) (t := modRx _ s) ⟨rfl, rfl, rfl, id, rfl, rfl, rfl⟩ h))
    case gapWatchExpiry => split; exacts [k.still (s := s) ⟨rfl, rfl, rfl, id, rfl, rfl, rfl⟩ h, h]
    case transmitEnd => exact frameEnd_moves k h
    case linkRateChange => split; exacts [frameEnd_moves k h, h]
    case trialDeadlineExpiry =>
      split
      · exact k.serve (k.acts (p := .tracking) (.offer _ _) (k.still (s := s) ⟨rfl, rfl, rfl, id, rfl, rfl, rfl⟩ h))
      · exact h

end Sys2Proof.Machine
end

section
/-! The step, the capacities and the resets. -/

namespace Sys2Proof.Machine

/-- Settles O1. -/
theorem stepRunsFrontCommand : Obligations.StepRunsFrontCommand := by
  intro c rest s front
  unfold step
  rw [front]

/-! ### What no command touches -/

/-- The commands and inputs to come and the free orders are those of s, and RESETN has not gone low since. -/
def FrameOf (s t : State) : Prop :=
  t.pending = s.pending ∧ t.samples = s.samples ∧ t.sched = s.sched ∧ (s.pins.resetn = true → t.pins.resetn = true)

theorem FrameOf.outside {s t u : State} (same : SameOutside t u) (h : FrameOf s t) : FrameOf s u := by
  obtain ⟨pending, samples, sched, resetn⟩ := h
  exact ⟨same.pending.trans pending, same.samples.trans samples, same.sched.trans sched, fun high => same.resetn (resetn high)⟩

theorem FrameOf.acts {p : Power} {s t u : State} (acts : Acts p t u) (h : FrameOf s t) : FrameOf s u := by
  obtain ⟨pending, samples, sched, resetn⟩ := h
  have pending' : u.fixed.pending = t.fixed.pending := by rw [acts.fixed]
  have samples' : u.fixed.samples = t.fixed.samples := by rw [acts.fixed]
  have sched' : u.fixed.sched = t.fixed.sched := by rw [acts.fixed]
  have pins : u.fixed.pins.resetn = t.fixed.pins.resetn := by rw [acts.fixed]
  exact ⟨pending'.trans pending, samples'.trans samples, sched'.trans sched, fun high => pins.trans (resetn high)⟩

theorem FrameOf.serve {s t : State} (h : FrameOf s t) : FrameOf s (serve t) := by
  obtain ⟨pending, samples, sched, resetn⟩ := h
  exact ⟨(serve_pending t).trans pending, (serve_samples t).trans samples, (serve_sched t).trans sched,
    fun high => by rw [serve_pins]; exact resetn high⟩

theorem FrameOf.perform {s t : State} (r : Request) (rest : List Request) (h : FrameOf s t) :
    FrameOf s (perform r (t.withSlk { t.slk with requests := rest })) := by
  unfold Machine.perform
  split
  · exact h
  · obtain ⟨u, same, p, acts⟩ := execute_changes r (t.withSlk { t.slk with requests := rest })
    have executed := FrameOf.acts acts (FrameOf.outside same (s := s) h)
    exact executed

theorem frameOf_moves (s : State) : KeptByMoves (FrameOf s) where
  still same h := h.outside same
  acts a h := h.acts a
  serve h := h.serve
  reset _ h := h
  wait _ _ h := h
  push _ _ h := h
  perform r rest _ _ h := h.perform r rest

/-- Settles O3: every arm of exec answers a next state, and the moves of the blocks touch nothing that is to come. -/
theorem everyCommandHasANextState : Obligations.EveryCommandHasANextState := by
  intro c s
  have total : ∃ t, exec c s = .next t := by
    cases hr : requestOf c with
    | some r => exact ⟨_, exec_submit hr s⟩
    | none => cases c <;> simp only [requestOf, reduceCtorEq] at hr <;> exact ⟨_, rfl⟩
  obtain ⟨t, ht⟩ := total
  refine ⟨t, ht, fun idle => ?_⟩
  obtain ⟨pending, samples, sched, -⟩ := exec_moves (frameOf_moves s) c s t idle ⟨rfl, rfl, rfl, id⟩ ht
  exact ⟨pending, samples, sched⟩

/-! ### Capacities (R38, R142, R156) -/

theorem State.linkWithin.of_outside {k : Nat} {s t : State} (same : SameOutside s t) (h : s.linkWithin k) : t.linkWithin k := by
  unfold State.linkWithin at *
  rw [same.notices, same.requests, same.responses]
  exact h

/-- A command at the head leaves the request queue, and its response takes the free place (R157). -/
theorem perform_linkWithin {s : State} (r : Request) (rest : List Request) (waiting : s.slk.requests = r :: rest)
    (room : s.slk.responses.length < Config.linkCapacity) (h : s.linkWithin Config.linkCapacity) :
    (perform r (s.withSlk { s.slk with requests := rest })).linkWithin Config.linkCapacity := by
  obtain ⟨notices, requests, -⟩ := h
  rw [waiting, List.length_cons] at requests
  have taken : (s.withSlk { s.slk with requests := rest }).linkWithin (Config.linkCapacity - 1) :=
    ⟨notices, Nat.le_of_succ_le requests, Nat.le_sub_one_of_lt room⟩
  have pushed : ∀ {u v : State}, u.linkWithin (Config.linkCapacity - 1) → v.ntq = u.ntq → v.slk.requests = u.slk.requests →
      v.slk.responses.length = u.slk.responses.length + 1 → v.linkWithin Config.linkCapacity := by
    intro u v ⟨a, b, c⟩ e1 e2 e3
    refine ⟨by rw [e1]; exact a, by rw [e2]; exact b, ?_⟩
    rw [e3]
    exact Nat.add_le_of_le_sub (by decide) c
  unfold perform
  split
  · exact pushed taken rfl rfl (by simp [pushResponse])
  · obtain ⟨u, same, p, acts⟩ := execute_changes r (s.withSlk { s.slk with requests := rest })
    have executed := acts.linkWithin (State.linkWithin.of_outside same taken)
    exact pushed executed rfl rfl (by simp [answer, pushResponse])

theorem linkWithin_moves : KeptByMoves (State.linkWithin Config.linkCapacity) where
  still same h := h.of_outside same
  acts a h := a.linkWithin h
  serve h := serve_linkWithin h
  reset _ _ := ⟨Nat.zero_le _, Nat.zero_le _, Nat.zero_le _⟩
  wait r room h := by
    obtain ⟨notices, -, responses⟩ := h
    exact ⟨notices, by simpa using room, responses⟩
  push r room h := by
    obtain ⟨notices, requests, -⟩ := h
    exact ⟨notices, requests, by simpa [pushResponse] using room⟩
  perform r rest waiting room h := perform_linkWithin r rest waiting room h

/-- A condition on the link's queues and on nothing to come is kept by the idle step too. -/
theorem step_linkWithin {s t : State} (h : s.linkWithin Config.linkCapacity) (idle : s.detectorIdle) (ht : step s = .next t) :
    t.linkWithin Config.linkCapacity := by
  unfold step at ht
  split at ht
  · cases ht
    have none : ∀ pending pins samples sched, (State.atReset pending pins samples sched 0).linkWithin Config.linkCapacity :=
      fun _ _ _ _ => ⟨Nat.zero_le _, Nat.zero_le _, Nat.zero_le _⟩
    unfold idleStep
    split
    · exact executeWaiting_moves linkWithin_moves h
    · unfold fineTick
      dsimp only
      split
      · exact none _ _ _ _
      · split
        · exact none _ _ _ _
        · rw [runTick_eq, takeSample_eq]
          exact h
  · rename_i c rest front
    exact exec_moves linkWithin_moves c (s.withPending rest) t idle h ht

/-- The item queue holds no more than its capacity (R38). -/
def State.itemsWithin (s : State) : Prop := s.iq.items.length ≤ Config.itemCapacity

theorem State.itemsWithin_core : CoreCondition State.itemsWithin := fun _ _ same h => by
  unfold State.itemsWithin
  rw [same.iq]
  exact h

theorem flushTo_itemsWithin (reason : ModeReason) (s : State) : (flushTo reason s).itemsWithin := by
  unfold State.itemsWithin
  rw [(flushTo_entries reason s).1]
  exact Nat.zero_le _

theorem CmdDoes.itemsWithin {s t : State} (h : CmdDoes s t) (within : s.itemsWithin) : t.itemsWithin := by
  cases h with
  | same h => exact State.itemsWithin_core _ _ h within
  | line c mode range => exact within
  | preset p mode => exact within
  | marks c => exact within
  | edit b f contents => exact within
  | commit b mode idle => unfold State.itemsWithin; rw [(commitBank_entries b s).2.1]; exact within
  | cancel b armed => exact within
  | lines v latches e => subst e; exact within
  | start mode => unfold State.itemsWithin; rw [(startRun_rest s).2.1]; exact within
  | drain limit mode =>
    obtain ⟨drain, acts⟩ := startDrain_acts limit s
    exact acts.itemsBounded (State.itemsWithin_core _ _ (offer_same _ _) within)
  | flush mode => exact flushTo_itemsWithin _ _
  | clear mode => exact flushTo_itemsWithin _ _
  | acts h => exact h.itemsBounded within

theorem itemsWithin_kept : KeptWhileIdle State.itemsWithin where
  core := State.itemsWithin_core
  steady _ _ _ h := h
  count _ _ h := h
  subStep _ _ h := h
  flt _ _ h := h
  acts _ _ a h := a.itemsBounded h
  reset _ _ _ _ _ := Nat.zero_le _
  flush s reason _ _ := flushTo_itemsWithin reason s
  does _ _ d h := d.itemsWithin h

/-- Settles O57: the items by what every step does to the tracking core, the other queues by the moves of the link. -/
theorem capacityKept : Obligations.CapacityKept := by
  intro s t within idle ht
  obtain ⟨items, notices, requests, responses⟩ := within
  obtain ⟨-, items'⟩ := itemsWithin_kept.step idle items ht
  obtain ⟨notices', requests', responses'⟩ := step_linkWithin ⟨notices, requests, responses⟩ idle ht
  exact ⟨items', notices', requests', responses'⟩

end Sys2Proof.Machine
end

section
/-! The reset state (R135, R136). -/

namespace Sys2Proof.Machine

/-! ### A transmitter that has chosen -/

/-- A second choice in a row takes nothing more (R161). -/
theorem serve_serve (s : State) : serve (serve s) = serve s := by
  cases tx : s.slk.tx with
  | sending f q role ticks =>
    have busy : s.slk.tx ≠ .idle := by rw [tx]; exact nofun
    rw [serve_busy s busy, serve_busy s busy]
  | idle =>
    by_cases same : serve s = s
    · rw [same, same]
    · refine serve_busy _ fun idle => same ?_
      unfold serve at idle ⊢
      rw [tx] at idle ⊢
      dsimp only at idle ⊢
      split at idle
      · cases idle
      · rename_i none
        split at idle
        · rfl
        · rfl
        · cases idle

/-- Whether an idle transmitter takes a notice at its offer or when the event is over is all one at its end (R161, log 8). -/
theorem serve_offer (s : State) (body : NoticeBody) :
    serve (s.offer body) = serve (s.withNtq (s.ntq.offer s.partTime body)) := by
  unfold State.offer
  dsimp only
  split
  · exact serve_serve _
  · rfl

/-! ### Every block in its reset state -/

theorem atReset_inputs (pending : List Instr) (pins : Pins) (samples : List Pins) (sched : Sched) (rate : Fin 6) :
    (State.atReset pending pins samples sched rate).inputsAtReset := by
  refine ⟨rfl, rfl, rfl, rfl, rfl, rfl, rfl, rfl, rfl, rfl, rfl, rfl, rfl, rfl, rfl, rfl, rfl, rfl, rfl, rfl, rfl, rfl, rfl,
    fun i => ?_⟩
  fin_cases i <;> exact ⟨rfl, rfl, rfl, rfl⟩

theorem atReset_bank (pending : List Instr) (pins : Pins) (samples : List Pins) (sched : Sched) (rate : Fin 6) (b : Fin 2) :
    (State.atReset pending pins samples sched rate).bank b = Bank.atReset (if b = 0 then .active else .idle) := by
  fin_cases b <;> rfl

theorem atReset_station (pending : List Instr) (pins : Pins) (samples : List Pins) (sched : Sched) (rate : Fin 6) (b : Fin 2)
    (n : Fin 16) : (State.atReset pending pins samples sched rate).station b n = .atReset := by
  unfold State.station
  rw [atReset_bank]
  exact Vector.getElem_replicate _

theorem atReset_window (pending : List Instr) (pins : Pins) (samples : List Pins) (sched : Sched) (rate : Fin 6) (b : Fin 2)
    (w : Fin 4) : (State.atReset pending pins samples sched rate).window b w = .atReset := by
  unfold State.window
  rw [atReset_bank]
  exact Vector.getElem_replicate _

theorem atReset_line (pending : List Instr) (pins : Pins) (samples : List Pins) (sched : Sched) (rate : Fin 6)
    (l : Fin 16) : (State.atReset pending pins samples sched rate).line l = .atReset :=
  Vector.getElem_replicate _

theorem atReset_core (pending : List Instr) (pins : Pins) (samples : List Pins) (sched : Sched) (rate : Fin 6) :
    (State.atReset pending pins samples sched rate).coreAtReset := by
  refine ⟨rfl, rfl, rfl, rfl, rfl, rfl, rfl, rfl, fun b n => ?_, fun b w => ?_, fun l => atReset_line _ _ _ _ _ l,
    fun b => ?_, rfl, rfl⟩
  · rw [atReset_station]; exact ⟨rfl, rfl⟩
  · rw [atReset_window]; exact ⟨rfl, rfl⟩
  · rw [atReset_bank]; exact ⟨rfl, rfl, rfl, rfl⟩

/-- A part held by RESETN is in its reset state, with every OUT pin low and TXD high (R135, R167). -/
theorem inReset_of_atReset {t : State} {pending : List Instr} {pins : Pins} {samples : List Pins} {sched : Sched}
    (h : t = State.atReset pending pins samples sched 0) : t.inReset := by
  subst h
  refine ⟨atReset_inputs _ _ _ _ _, atReset_core _ _ _ _ _, ⟨rfl, rfl, rfl, rfl, rfl, rfl, rfl, rfl, rfl, rfl, rfl, rfl, rfl,
    rfl⟩, rfl, rfl, fun l => ?_, ?_⟩
  · unfold State.outPin
    rw [State.pinActive_of_configure rfl, atReset_line]
    rfl
  · exact Bool.or_true _

/-- The N_MODE of a reset: number 0, class 3, at part time 0 (R133, R148). -/
def resetNotice (previous : Mode) (kind : ResetKind) : Notice :=
  { number := 0#16, cls := 3, time := 0#32
    body := .mode .configure previous .reset 0 0#16 0#16 0#32 0#32 0 (some kind) }

/-- What a reset leaves once N_MODE RESET has gone to the transmitter (R135, R136, R148). -/
theorem reset_started (pending : List Instr) (pins : Pins) (samples : List Pins) (sched : Sched) (rate : Fin 6)
    (previous : Mode) (kind : ResetKind) :
    let t := serve ((State.atReset pending pins samples sched rate).offerMode previous .reset .nothing (some kind))
    t.inputsAtReset ∧ t.coreAtReset ∧ t.linkAtReset rate previous kind ∧ t.pins = pins := by
  obtain ⟨u, hu⟩ : ∃ u, u = State.atReset pending pins samples sched rate := ⟨_, rfl⟩
  have served : serve (u.offerMode previous .reset .nothing (some kind)) =
      (u.withNtq { queue := [], next := 1#16, classes := #v[1, 0, 2, 1, 3, 2, 1, 2, 3, 3, 3, 2] }).withSlk
        { u.slk with tx := .sending (resetNotice previous kind).frame rate .plain 0 } := by
    unfold State.offerMode
    rw [serve_offer, hu]
    rfl
  have inputs := atReset_inputs pending pins samples sched rate
  have core := atReset_core pending pins samples sched rate
  rw [← hu] at inputs core
  intro t
  have ht : t = _ := (congrArg (fun v : State => serve (v.offerMode previous .reset .nothing (some kind))) hu).symm.trans served
  rw [ht]
  refine ⟨inputs, core, ?_, by rw [hu]; rfl⟩
  rw [hu]
  exact ⟨rfl, ⟨rfl, rfl, rfl, rfl, rfl, rfl, rfl, rfl, rfl, rfl, rfl, rfl, rfl, rfl⟩, rfl⟩

theorem resetTo_atReset (kind : ResetKind) (rate : Fin 6) (s : State) :
    let t := resetTo kind rate s
    t.inputsAtReset ∧ t.coreAtReset ∧
      t.linkAtReset rate (match kind with | .powerOn => .configure | .pin => .configure | .soft => s.run.mode) kind ∧
      t.pins = s.pins :=
  reset_started s.pending s.pins s.samples s.sched rate _ kind

theorem frameEnd_partReset {s : State} {f : Frame} {q : Fin 6} {k : Nat} (tx : s.slk.tx = .sending f q .partReset k) :
    frameEnd s = resetTo .soft s.slk.rate (s.withSlk { s.slk with tx := .idle }) := by
  unfold frameEnd
  rw [tx]
  rfl

/-! ### A fine tick with RESETN low -/

theorem fineTick_low {s : State} (low : (s.samples.headD s.pins).resetn = false) :
    fineTick s = holdReset ((s.withSamples s.samples.tail).withPins (s.samples.headD s.pins)) := by
  unfold fineTick
  dsimp only
  rw [takeSample_eq]
  exact if_pos (State.held_of_low low)

theorem fineTick_release {s : State} (was : s.pins.resetn = false) (high : (s.samples.headD s.pins).resetn = true) :
    fineTick s = (holdReset ((s.withSamples s.samples.tail).withPins (s.samples.headD s.pins))).withPending
      (s.pending ++ [.pinReset]) := by
  unfold fineTick
  dsimp only
  rw [takeSample_eq, if_neg (by rw [State.held_of_high high]; exact Bool.false_ne_true), if_pos (State.held_of_low was)]
  rfl

theorem fineTick_high {s : State} (was : s.pins.resetn = true) (high : (s.samples.headD s.pins).resetn = true) :
    fineTick s = runTick ((s.withSamples s.samples.tail).withPins (s.samples.headD s.pins)) := by
  unfold fineTick
  dsimp only
  rw [takeSample_eq, if_neg (by rw [State.held_of_high high]; exact Bool.false_ne_true),
    if_neg (by rw [State.held_of_high was]; exact Bool.false_ne_true)]

theorem idleStep_fineTick {s : State} (h : s.pins.resetn = false ∨ s.canExecute = false) : idleStep s = fineTick s := by
  unfold idleStep
  refine if_neg ?_
  rcases h with low | cannot
  · simp [State.held_of_low low]
  · simp [cannot]

theorem State.inReset.withPending {s : State} (h : s.inReset) (q : List Instr) : (s.withPending q).inReset := h

/-- After a step at whose end RESETN is low, the part is in its reset state (R135). -/
theorem step_low {s t : State} (idle : s.detectorIdle) (was : s.pins.resetn = false → s.inReset) (ht : step s = .next t)
    (low : t.pins.resetn = false) : t.inReset := by
  unfold step at ht
  split at ht
  · cases ht
    cases now : s.pins.resetn with
    | true =>
      by_cases can : s.canExecute = true
      · have run : idleStep s = executeWaiting s := by unfold idleStep; simp [State.held_of_high now, can]
        rw [run] at low
        have frame := executeWaiting_moves (frameOf_moves s) (s := s) ⟨rfl, rfl, rfl, id⟩
        obtain ⟨-, -, -, resetn⟩ := frame
        rw [resetn now] at low
        cases low
      · rw [idleStep_fineTick (.inr (Bool.eq_false_iff.mpr can))] at low ⊢
        cases next : (s.samples.headD s.pins).resetn with
        | false => rw [fineTick_low next]; exact inReset_of_atReset rfl
        | true =>
          rw [fineTick_high now next, runTick_eq] at low
          exact absurd (next.symm.trans low) (by decide)
    | false =>
      rw [idleStep_fineTick (.inl now)]
      cases next : (s.samples.headD s.pins).resetn with
      | false => rw [fineTick_low next]; exact inReset_of_atReset rfl
      | true => rw [fineTick_release now next]; exact (inReset_of_atReset rfl).withPending _
  · rename_i c rest front
    cases now : s.pins.resetn with
    | true =>
      obtain ⟨-, -, -, resetn⟩ := exec_moves (frameOf_moves (s.withPending rest)) c (s.withPending rest) t idle
        ⟨rfl, rfl, rfl, id⟩ ht
      rw [resetn now] at low
      cases low
    | false =>
      by_cases power : c = .powerOnReset
      · subst power
        cases ht
        obtain ⟨-, -, -, pins⟩ := resetTo_atReset .powerOn 0 (releaseReset (s.withPending rest))
        rw [pins] at low
        cases low
      by_cases pin : c = .pinReset
      · subst pin
        cases ht
        obtain ⟨-, -, -, pins⟩ := resetTo_atReset .pin 0 (releaseReset (s.withPending rest))
        rw [pins] at low
        cases low
      rw [exec_low c (State.held_of_low (s := s.withPending rest) now) power pin] at ht
      cases ht
      exact (was now).withPending rest

/-- Settles O5: each reset is State.atReset with N_MODE RESET taken at once, and RESETN low is State.atReset alone. -/
theorem resetsGiveTheResetState : Obligations.ResetsGiveTheResetState := by
  refine ⟨fun s => ⟨⟨_, rfl, resetTo_atReset .powerOn 0 _⟩, ⟨_, rfl, resetTo_atReset .pin 0 _⟩⟩, ?_, ?_, ?_, ?_, ?_⟩
  · intro s f q k high tx
    have free := State.held_of_high high
    have soft : exec .softReset s = .next (resetTo .soft s.slk.rate (s.withSlk { s.slk with tx := .idle })) := by
      simp only [exec, execSoftReset, unlessHeld_high _ free, tx]
      rw [frameEnd_partReset tx]
    refine ⟨⟨_, soft, resetTo_atReset .soft s.slk.rate _⟩, ?_⟩
    rw [soft, exec_transmitEnd_high free, frameEnd_partReset tx]
  · intro s empty h p
    have idle : step s = .next (fineTick s) := by
      unfold step
      rw [empty, ← idleStep_fineTick h]
    refine ⟨fun low => ⟨_, idle, ?_⟩, fun was high => ⟨_, idle, ?_⟩⟩
    · rw [fineTick_low low]
      exact ⟨inReset_of_atReset rfl, rfl, rfl, empty⟩
    · rw [fineTick_release was high, empty]
      exact ⟨(inReset_of_atReset rfl).withPending _, rfl, rfl, rfl⟩
  · exact fun c s low power pin => exec_low c (State.held_of_low low) power pin
  · intro s low
    unfold State.txd
    rw [State.held_of_low low]
    exact Bool.true_or _
  · exact fun s t idle was ht low => step_low idle was ht low

end Sys2Proof.Machine
end

section
/-! The encoder (spec/01): counts, sub-steps, the standstill watch, and the reverse limit. -/

namespace Sys2Proof.Machine

/-- Settles O56: the machine after reset is State.atReset, which meets each of the conditions. -/
theorem resetMeetsTheConditions : Obligations.ResetMeetsTheConditions := by
  obtain ⟨empty, counts⟩ := queueSound_atReset [] .atReset [] .canonical 0
  refine ⟨⟨Nat.zero_le _, Nat.zero_le _, Nat.zero_le _, Nat.zero_le _⟩, banksLegal_atReset _ _ _ _ _,
    runLegal_kept.reset _ _ _ _ _, ⟨fun _ => rfl, empty⟩, counts, actuatorsQuiet_atReset _ _ _ _ _,
    positionSound_atReset _ _ _ _ _, State.numbersFollow_empty rfl (by decide), ?_⟩
  show 0 < 2 ^ _
  exact Nat.two_pow_pos _

/-! ### Decoding (R2, Tables 10 and 11) -/

/-- Settles O6: the eight rows of the tables, and the two phases of a change that does not count. -/
theorem countDirectionFollowsTables10And11 : Obligations.CountDirectionFollowsTables10And11 := by
  refine ⟨fun phase a b dir x2 x1 row c => ?_, fun s high none => ?_, fun s high none => ?_⟩
  · have flip : ∀ d : Dir, d.flip = match d with | .forward => .reverse | .reverse => .forward := fun d => by cases d <;> rfl
    simp only [List.mem_cons, Prod.mk.injEq, List.not_mem_nil, or_false] at row
    rcases row with ⟨rfl, rfl, rfl, rfl, rfl, rfl⟩ | ⟨rfl, rfl, rfl, rfl, rfl, rfl⟩ | ⟨rfl, rfl, rfl, rfl, rfl, rfl⟩ |
      ⟨rfl, rfl, rfl, rfl, rfl, rfl⟩ | ⟨rfl, rfl, rfl, rfl, rfl, rfl⟩ | ⟨rfl, rfl, rfl, rfl, rfl, rfl⟩ |
      ⟨rfl, rfl, rfl, rfl, rfl, rfl⟩ | ⟨rfl, rfl, rfl, rfl, rfl, rfl⟩ <;>
      cases mode : c.countMode <;> simp [LineCfg.decode, quadrature, CountMode.counts, mode, flip]
  · rw [exec_count_high .a (State.held_of_high high), takePhase_still .a s none]
    rfl
  · rw [exec_count_high .b (State.held_of_high high), takePhase_still .b s none]
    rfl

/-! ### What acts leave of run control -/

/-- Without faults acts change run control by the end of a drain only (R127). -/
theorem Acts.run_or_drained {p : Power} {s t : State} (h : Acts p s t) (level : p ≠ .faults) :
    t.run = s.run ∨ s.run.mode = .stopping ∧ t.run.mode = .configure := by
  induction h with
  | refl s => exact .inl rfl
  | trans _ k h1 h2 =>
    rcases h1 with same | ⟨stopping, configured⟩
    · rw [← same]; exact h2
    · exact .inr ⟨stopping, by rw [k.run_eq level (by rw [configured]; decide)]; exact configured⟩
  | offer s body => simp
  | detector s m allowed cfg idle => exact .inl rfl
  | item s no f bank num => exact .inl rfl
  | join s i creating room mode num => exact .inl rfl
  | retire s i rest body head => exact .inl (by simp [bankRetired, State.modBank])
  | station s b n f on => exact .inl rfl
  | window s b w f => exact .inl rfl
  | latch s l v mode => exact .inl rfl
  | switch s creating mode => exact .inl (switchBanks_run s)
  | drained s mode empty =>
    obtain ⟨v, hv, run, -⟩ := enterConfigure_eq .drained .nothing s
    rw [hv, State.offer_run, run]
    exact .inr ⟨mode, rfl⟩
  | fault s c allowed mode => exact absurd allowed level
  | cause s c allowed mode => exact absurd allowed level

/-- The reach after acts, by the mode they end in (R11, R12). -/
theorem Acts.reach_kept {p : Power} {s t : State} (h : Acts p s t) (mode : t.run.mode ≠ .configure) :
    t.lei.reach = s.lei.reach := by
  obtain ⟨-, kept, -⟩ := h.lei
  exact kept.resolve_right mode

theorem Acts.timer_kept {p : Power} {s t : State} (h : Acts p s t) (mode : t.run.mode ≠ .fault) :
    t.lei.subTimer = s.lei.subTimer := by
  obtain ⟨-, -, kept, -⟩ := h.lei
  exact kept.resolve_right fun fault => mode fault.2

/-- The part of the state outside LEI that acts leave as it was, LEI set aside. -/
theorem Acts.fixed_besides_lei {p : Power} {s t : State} (h : Acts p s t) (l : Lei) :
    (t.withLei l).fixed = (s.withLei l).fixed :=
  congrArg (fun v : State => v.withLei { l with reach := 0#32, subTimer := none }) h.fixed

/-! ### One count -/

/-- What LEI becomes at a count that a change of one phase gives. -/
def countedLei (phase : Phase) (d : Dir) (s : State) : Lei :=
  (togglePhase phase s).lei.count s.run.mode d s.partTime

/-- A count leaves in LEI, the levels aside, what it would leave without the change of the phase that gives it. -/
theorem countedLei_leaves (phase : Phase) (d : Dir) (s : State) : CountLeaves s.run.mode d s.partTime s.lei
    { countedLei phase d s with encA := s.lei.encA, encB := s.lei.encB } := by
  obtain ⟨-, -, -, toggled⟩ := togglePhase_rest phase s
  have leaves := count_leaves s.run.mode d s.partTime (togglePhase phase s).lei
  obtain ⟨l, hl⟩ : ∃ l, l = (togglePhase phase s).lei := ⟨_, rfl⟩
  rw [← hl] at toggled leaves
  obtain ⟨interval, valid, sameDir⟩ := measure_congr d (l := s.lei) (m := l) (by rw [toggled]) (by rw [toggled])
    (by rw [toggled]) (by rw [toggled])
  have moved : (l.move d).countReg = (s.lei.move d).countReg := by rw [toggled]; rfl
  obtain ⟨motion, turning⟩ := track_congr d (l := s.lei.move d) (m := l.move d) (by rw [toggled]; rfl) moved
    (by rw [toggled]; rfl) (by rw [toggled]; rfl)
  obtain ⟨indexCount, indexRef⟩ := indexOnCount_congr d (l := s.lei) (m := l) (by rw [toggled]) (by rw [toggled])
    (by rw [toggled]) (by rw [toggled])
  have counted : l.count s.run.mode d s.partTime = countedLei phase d s := by rw [hl]; rfl
  rw [counted] at leaves
  refine ⟨leaves.cfg.trans (by rw [toggled]), ⟨rfl, rfl, leaves.levels.2.2.trans (by rw [toggled])⟩,
    leaves.countReg.trans moved, leaves.sub, leaves.interval.trans interval, leaves.valid.trans valid,
    leaves.sameDir.trans sameDir, leaves.sinceCount, leaves.motion.trans motion, leaves.turning.trans turning,
    leaves.indexCount.trans indexCount, leaves.indexRef.trans indexRef, leaves.lastDir, leaves.standstill,
    leaves.position.trans (by rw [toggled]; rfl), leaves.reach.trans (by rw [toggled]; rfl)⟩

/-- The levels that a count finds in LEI are those of the changed phase and of the other inputs. -/
theorem countedLei_levels (phase : Phase) (d : Dir) (s : State) : (countedLei phase d s).encA = (togglePhase phase s).lei.encA ∧
    (countedLei phase d s).encB = (togglePhase phase s).lei.encB ∧ (countedLei phase d s).encZ = s.lei.encZ := by
  obtain ⟨-, -, -, toggled⟩ := togglePhase_rest phase s
  obtain ⟨a, b, z⟩ := (count_leaves s.run.mode d s.partTime (togglePhase phase s).lei).levels
  exact ⟨a, b, z.trans (by rw [toggled])⟩

/-- A COUNT that counts, with LEI as the blocks find and leave it. -/
theorem exec_counted (phase : Phase) (d : Dir) (s : State) (high : s.pins.resetn = true) (idle : s.detectorIdle)
    (counts : s.countOf phase = some d) : ∃ t, exec (.count phase) s = .next (serve t) ∧
      Acts .faults ((togglePhase phase s).withLei (countedLei phase d s)) t ∧
      t = leiEvent (d == .reverse) (countedLei phase d s) (togglePhase phase s) := by
  obtain ⟨t, run, acts, taken⟩ := exec_count phase d s (State.held_of_high high) idle counts
  refine ⟨t, run, acts, taken.trans ?_⟩
  obtain ⟨r, -, now, -⟩ := togglePhase_rest phase s
  unfold takeCount countedLei
  rw [r, now]

/-- Settles O7: LEI after the count field by field, and of it what acts keep. -/
theorem countMovesPositionToTheNextBoundary : Obligations.CountMovesPositionToTheNextBoundary := by
  intro phase d s high sound idle counts u
  have toggled : u = togglePhase phase s := by cases phase <;> rfl
  clear_value u
  subst toggled
  obtain ⟨t, run, acts, event⟩ := exec_counted phase d s high idle counts
  obtain ⟨small, -, sub, configured⟩ := sound
  have leaves := countedLei_leaves phase d s
  obtain ⟨encA, encB, encZ⟩ := countedLei_levels phase d s
  obtain ⟨l, hl⟩ : ∃ l, l = countedLei phase d s := ⟨_, rfl⟩
  rw [← hl] at acts event leaves encA encB encZ
  have mode : ((togglePhase phase s).withLei l).run.mode = s.run.mode := congrArg Run.mode (togglePhase_rest phase s).1
  have position : l.position = (s.lei.move d).position := leaves.position
  have reach : l.reach = if s.run.mode = .configure then l.position else if s.run.mode = .fault then s.lei.reach
      else if atOrBeyond l.position s.lei.reach then l.position else s.lei.reach := leaves.reach
  have timer := count_subTimer s.run.mode d s.partTime (togglePhase phase s).lei
  have cfg : l.cfg = s.lei.cfg := leaves.cfg
  rw [show (togglePhase phase s).lei.count s.run.mode d s.partTime = l from hl.symm, cfg] at timer
  obtain ⟨fields, -, -, closed⟩ := acts.lei
  have stopped : s.running = false → t.run.mode = s.run.mode ∧ t.lei = l := fun still => by
    have := acts.stopped (by rw [State.running, mode]; exact still)
    rw [mode] at this
    exact this
  refine ⟨l, t, run, ?_, leaves.sub, position.trans (move_position d s.lei small sub), fun m => ?_, fun m => ?_,
    fun m => ?_, encA, encB, encZ, timer, acts.timer_kept, fun m => ?_, fields, fun m => ?_, acts.reach_kept,
    acts.fixed_besides_lei s.lei⟩
  · have direction : decide (d = .reverse) = (d == .reverse) := by cases d <;> rfl
    rw [direction, event]
    exact leiEvent_blocksAct _ _ _
  · rw [reach, if_pos m]
  · rw [reach, if_neg (by rw [m]; decide), if_pos m]
  · rcases State.mode_cases_of_running m with run | stopping
    · rw [reach, run]; rfl
    · rw [reach, stopping]; rfl
  · cases still : s.running with
    | true => exact acts.timer_stopped (by rw [State.running, mode]; exact still) m
    | false =>
      obtain ⟨m', same⟩ := stopped still
      rw [same, timer, if_neg fun all => all.2.2.2.2.2 (m'.symm.trans m)]
  · cases still : s.running with
    | true => exact closed (by rw [State.running, mode]; exact still) m
    | false =>
      obtain ⟨m', same⟩ := stopped still
      rw [same, reach, if_pos (m'.symm.trans m)]

/-- Settles O8: the fields of LEI that a count sets and acts do not touch. -/
theorem countMeasuresTheInterval : Obligations.CountMeasuresTheInterval := by
  intro phase d s high idle counts
  obtain ⟨t, run, acts, -⟩ := exec_counted phase d s high idle counts
  have leaves := countedLei_leaves phase d s
  obtain ⟨fields, -⟩ := acts.lei
  refine ⟨serve t, run, ?_⟩
  rw [serve_lei, fields]
  refine ⟨leaves.sinceCount, leaves.standstill, leaves.lastDir, leaves.cfg, fun r same dir => ?_, fun other => ?_,
    fun off => ?_, fun on dir => ?_, fun on dir => ?_⟩
  · have measured : s.lei.measure d = { s.lei with
        interval := min s.lei.sinceCount Config.maxInterval, valid := s.lei.valid || decide (1 ≤ r.measured)
        sameDir := some { dir := d, measured := min (r.measured + 1) 2 }, sinceCount := 0 } := by
      unfold Lei.measure
      rw [same]
      exact if_pos dir
    exact ⟨leaves.interval.trans (by rw [measured]; rfl), leaves.valid.trans (by rw [measured]),
      leaves.sameDir.trans (by rw [measured])⟩
  · have measured : s.lei.measure d = { s.lei with
        valid := false, sameDir := some { dir := d, measured := 0 }, sinceCount := 0 } := by
      unfold Lei.measure
      cases before : s.lei.sameDir with
      | none => rfl
      | some r => exact if_neg (other r before)
    exact ⟨leaves.interval.trans (by rw [measured]), leaves.valid.trans (by rw [measured]),
      leaves.sameDir.trans (by rw [measured])⟩
  · have index : s.lei.indexOnCount d = { s.lei with lastDir := some d } := by
      unfold Lei.indexOnCount
      rw [if_pos off]
    exact ⟨leaves.indexCount.trans (by rw [index]), leaves.indexRef.trans (by rw [index])⟩
  · subst dir
    refine ⟨leaves.indexCount.trans ?_, leaves.indexRef.trans ?_⟩ <;> unfold Lei.indexOnCount <;> rw [if_neg on]
    by_cases reversed : s.lei.lastDir = some .reverse <;> simp [reversed]
  · subst dir
    refine ⟨leaves.indexCount.trans ?_, leaves.indexRef.trans ?_⟩ <;> unfold Lei.indexOnCount <;> rw [if_neg on]

/-- Settles O9: the excursion after the move decides, and outside RUN and STOPPING N_MOTION is all that follows. -/
theorem countTracksTheMotionState : Obligations.CountTracksTheMotionState := by
  intro phase d s high idle counts
  obtain ⟨t, run, acts, event⟩ := exec_counted phase d s high idle counts
  have leaves := countedLei_leaves phase d s
  obtain ⟨fields, -⟩ := acts.lei
  have countReg : t.lei.countReg = (s.lei.move d).countReg := by rw [fields]; exact leaves.countReg
  have motion : t.lei.motion = ((s.lei.move d).track d).motion := by rw [fields]; exact leaves.motion
  have turning : t.lei.turning = ((s.lei.move d).track d).turning := by rw [fields]; exact leaves.turning
  obtain ⟨tracked, turned⟩ := track_motion d (s.lei.move d)
  refine ⟨serve t, run, ?_⟩
  rw [serve_lei]
  intro e
  have he : (s.lei.move d).excursion = e := by
    show _ = Lei.excursion _
    rw [countReg]
    rfl
  rw [he] at tracked turned
  refine ⟨?_, motion.trans tracked, ?_, fun still => ?_⟩
  · rw [countReg]
    cases d <;> rfl
  · rw [turning, turned, motion, countReg]
    rfl
  · obtain ⟨mode, -, -, toggled⟩ := togglePhase_rest phase s
    have still' : (togglePhase phase s).running = false := by rw [State.running, mode]; exact still
    have before : (togglePhase phase s).lei.motion = s.lei.motion := by rw [toggled]
    rw [leiEvent_still _ _ _ still', before] at event
    have lei : t.lei = countedLei phase d s := by rw [event]; split <;> simp
    have pins : t.pins = (togglePhase phase s).pins := by rw [event]; split <;> simp
    have toggled' : (s.withLei t.lei).withPins t.pins = (togglePhase phase s).withLei (countedLei phase d s) := by
      rw [lei, pins]
      cases phase <;> rfl
    intro u
    have hu : u = (togglePhase phase s).withLei (countedLei phase d s) := by
      show (s.withLei t.lei).withPins (serve t).pins = _
      rw [serve_pins, toggled']
    rw [hu, lei]
    exact congrArg serve event

/-! ### The reverse limit (R13) -/

/-- The tasks of a reverse count hold the limit test once. -/
theorem reverseTasks_split (ks : List Nat) (before after : State) : ∃ pre post : List Task,
    arrange ks (eventTasks true before after) = pre ++ .reverseLimit :: post ∧
      (∀ t ∈ pre, t ≠ .reverseLimit) ∧ ∀ t ∈ post, t ≠ .reverseLimit := by
  have others := eventTasks_no_limit before after
  have perm : (arrange ks (eventTasks true before after)).Perm (.reverseLimit :: eventTasks false before after) :=
    (arrange_perm ks _).trans (List.Perm.swap _ _ _)
  obtain ⟨pre, post, split⟩ := List.append_of_mem (perm.mem_iff.mpr List.mem_cons_self)
  rw [split] at perm
  have rest : (pre ++ post).Perm (eventTasks false before after) :=
    (List.perm_middle.symm.trans perm).cons_inv
  exact ⟨pre, post, split, fun t mem => others t (rest.mem_iff.mp (List.mem_append_left _ mem)),
    fun t mem => others t (rest.mem_iff.mp (List.mem_append_right _ mem))⟩

theorem Task.reverseLimit_still (note : Option NoticeBody) {s : State} (still : s.running = false) :
    Task.reverseLimit.run note s = s := by
  unfold Task.run whileRunning
  simp [still]

theorem Task.reverseLimit_running (note : Option NoticeBody) {s : State} (running : s.running = true) :
    Task.reverseLimit.run note s = if s.lei.reverseLimitMet then raiseCause .reverseLimit s else s := by
  unfold Task.run whileRunning
  simp [running]

/-- What follows a limit test that raises the fault keeps the fault and the reach (R13, R130). -/
theorem limitRaised_kept {v t : State} (running : v.running = true) (acts : Acts .marks (raiseCause .reverseLimit v) t) :
    t.run.mode = .fault ∧ t.run.first = some .reverseLimit ∧ t.run.faults = FaultSet.empty.add .reverseLimit ∧
      t.lei.reach = v.lei.reach := by
  rw [raiseCause_running _ _ running] at acts
  obtain ⟨w, hw, run, -, -, lei, -⟩ := enterFault_eq .reverseLimit v
  have raised : (enterFault .reverseLimit v).run = { v.run with
      mode := .fault, first := some .reverseLimit, faults := FaultSet.empty.add .reverseLimit, drain := none } := by
    rw [hw, State.offer_run, run]
  have kept := acts.run_eq (by decide) (by rw [raised]; exact nofun)
  rw [raised] at kept
  have reach : (enterFault .reverseLimit v).lei.reach = v.lei.reach := by rw [hw, State.offer_lei, lei]
  exact ⟨by rw [kept], by rw [kept], by rw [kept], (acts.reach_kept (by rw [kept]; exact nofun)).trans reach⟩

/-- The blocks at a reverse count in RUN and STOPPING: the drain has ended, or the limit test has decided (R13, R127). -/
theorem leiEvent_reverse (l : Lei) (s : State) (idle : s.detectorIdle) (running : s.running = true) :
    let t := leiEvent true l s
    (s.run.mode = .stopping ∧ t.run.mode = .configure) ∨
      (l.reverseLimitMet = true → t.run.mode = .fault ∧ t.run.first = some .reverseLimit ∧
        t.run.faults = FaultSet.empty.add .reverseLimit ∧ t.lei.reach = l.reach) ∧
      (l.reverseLimitMet = false → t.run = s.run) := by
  intro t
  obtain ⟨pre, post, split, noPre, noPost⟩ := reverseTasks_split s.sched.tasks s (s.withLei l)
  obtain ⟨v, hv⟩ : ∃ v, v = pre.foldl (fun u task => Task.run (motionNote s.lei l) task u) (s.withLei l) := ⟨_, rfl⟩
  have ht : t = post.foldl (fun u task => Task.run (motionNote s.lei l) task u)
      (Task.reverseLimit.run (motionNote s.lei l) v) := by
    show leiEvent true l s = _
    unfold leiEvent
    dsimp only
    rw [split, List.foldl_append, List.foldl_cons, hv]
  have first : Acts .marks (s.withLei l) v := hv ▸ tasks_marks _ pre _ idle noPre
  have idle' : v.detectorIdle := first.detectorIdle idle
  rcases first.run_or_drained (by decide) with same | ⟨stopping, configured⟩
  · have running' : v.running = true := by rw [State.running, same]; exact running
    have notConfigure : v.run.mode ≠ .configure := fun c => by rw [State.running_of_configure c] at running'; cases running'
    obtain ⟨fields, -⟩ := first.lei
    have reach : v.lei.reach = l.reach := first.reach_kept notConfigure
    have met : v.lei.reverseLimitMet = l.reverseLimitMet := by
      unfold Lei.reverseLimitMet
      rw [reach, fields]
      rfl
    rw [Task.reverseLimit_running _ running', met] at ht
    cases limit : l.reverseLimitMet with
    | true =>
      rw [limit, if_pos rfl] at ht
      have after : Acts .marks (raiseCause .reverseLimit v) t :=
        ht ▸ tasks_marks _ post _ ((raiseCause_acts _ _).detectorIdle idle') noPost
      obtain ⟨mode, cause, faults, kept⟩ := limitRaised_kept running' after
      exact .inr ⟨fun _ => ⟨mode, cause, faults, kept.trans reach⟩, nofun⟩
    | false =>
      rw [limit, if_neg Bool.false_ne_true] at ht
      have after : Acts .marks v t := ht ▸ tasks_marks _ post _ idle' noPost
      rcases after.run_or_drained (by decide) with kept | ⟨stopping, configured⟩
      · exact .inr ⟨nofun, fun _ => kept.trans same⟩
      · exact .inl ⟨by rw [same] at stopping; exact stopping, configured⟩
  · rw [Task.reverseLimit_still _ (State.running_of_configure configured)] at ht
    have after : Acts .marks v t := ht ▸ tasks_marks _ post _ idle' noPost
    exact .inl ⟨stopping, by rw [after.run_eq (by decide) (by rw [configured]; decide)]; exact configured⟩

/-- Settles O10: a reverse count behind the reach leaves the reach, and the limit test finds the position it gives. -/
theorem reverseLimitIsTestedAtReverseCounts : Obligations.ReverseLimitIsTestedAtReverseCounts := by
  refine ⟨?_, fun note s => ⟨Task.reverseLimit_still note, fun running => ?_, ?_⟩⟩
  · intro phase s high sound running idle counts p behind
    obtain ⟨t, run, -, event⟩ := exec_counted phase .reverse s high idle counts
    obtain ⟨small, -, sub, -⟩ := sound
    have leaves := countedLei_leaves phase .reverse s
    obtain ⟨mode, mkd, -, -⟩ := togglePhase_rest phase s
    obtain ⟨l, hl⟩ : ∃ l, l = countedLei phase .reverse s := ⟨_, rfl⟩
    rw [← hl] at event leaves
    have position : l.position = p := leaves.position.trans (move_position .reverse s.lei small sub)
    have cfg : l.cfg = s.lei.cfg := leaves.cfg
    have reach : l.reach = s.lei.reach := by
      have stays : l.reach = if s.run.mode = .configure then l.position else if s.run.mode = .fault then s.lei.reach
        else if atOrBeyond l.position s.lei.reach then l.position else s.lei.reach := leaves.reach
      rw [stays, position, behind]
      rcases State.mode_cases_of_running running with m | m <;> rw [m] <;> rfl
    have limit : l.reverseLimitMet =
        atOrBeyond s.lei.reach (p + BitVec.ofNat 32 (s.lei.cfg.revLimit * 2 ^ s.lei.cfg.s)) := by
      unfold Lei.reverseLimitMet plusLu
      rw [reach, position, cfg]
    have idle' : (togglePhase phase s).detectorIdle := by
      unfold State.detectorIdle
      rw [mode, mkd]
      exact idle
    have running' : (togglePhase phase s).running = true := by rw [State.running, mode]; exact running
    have decided := leiEvent_reverse l (togglePhase phase s) idle' running'
    rw [mode, limit, reach, show leiEvent true l (togglePhase phase s) = t from event.symm] at decided
    refine ⟨serve t, run, ?_⟩
    rw [serve_run, serve_lei]
    exact decided
  · rw [Task.reverseLimit_running note running]
    rfl
  · cases note <;> rfl

/-! ### Sub-steps and the standstill watch (R7, R9) -/

/-- One sub-step at the frontier (R7, R11). -/
theorem subStep_at_frontier {mode : Mode} {l : Lei} (forward : l.motion = .forward)
    (valid : l.valid = true) (frontier : l.position = l.reach) (notFault : mode ≠ .fault) :
    l.subStep mode = { l with
      sub := l.sub + 1, reach := l.position + 1#32
      subTimer := if l.sub + 2 < 2 ^ l.cfg.s then some (max 1 (l.interval / 2 ^ l.cfg.s)) else none } := by
  have position : ({ l with sub := l.sub + 1 } : Lei).position = l.position + 1#32 := by
    simp only [Lei.position, ← Nat.add_assoc, BitVec.ofNat_add]
  have beyond : atOrBeyond (l.position + 1#32) l.reach = true := by
    rw [← frontier]
    simp [atOrBeyond]
  have follow : ({ l with sub := l.sub + 1 } : Lei).follow mode = { l with sub := l.sub + 1, reach := l.position + 1#32 } := by
    rw [follow_fields, follow_reach, position]
    cases mode
    · rfl
    · rw [if_neg (by decide), if_neg (by decide)]; simp only [beyond]; rfl
    · rw [if_neg (by decide), if_neg (by decide)]; simp only [beyond]; rfl
    · exact absurd rfl notFault
  unfold Lei.subStep
  rw [follow]
  have here : ({ l with sub := l.sub + 1, reach := l.position + 1#32 } : Lei).atFrontier = true := beq_iff_eq.mpr position
  simp only [Lei.restartSub, Lei.subStepsOn, here, Lei.period]
  simp [forward, valid, notFault, Nat.add_assoc]

/-- Settles O13: the new state of LEI, and of it what acts keep. -/
theorem subStepAddsOneLineUnit : Obligations.SubStepAddsOneLineUnit := by
  intro s high sound idle
  have event := exec_subStep_high (State.held_of_high high)
  refine ⟨fun due forward valid frontier room notFault => ?_, fun missing => ?_⟩
  · have small := sound.1
    have on : s.lei.subStepDue s.run.mode = true :=
      Lei.subStepDue_iff.mpr ⟨due, forward, valid, frontier, room, notFault⟩
    have new := subStep_at_frontier (mode := s.run.mode) forward valid frontier notFault
    rw [on, if_pos rfl, new] at event
    obtain ⟨l, hl⟩ : ∃ l : Lei, l = { s.lei with
        sub := s.lei.sub + 1, reach := s.lei.position + 1#32
        subTimer := if s.lei.sub + 2 < 2 ^ s.lei.cfg.s then some (max 1 (s.lei.interval / 2 ^ s.lei.cfg.s)) else none } :=
      ⟨_, rfl⟩
    have acts := leiEvent_marks l s idle
    have sound' : (leiEvent false l s).positionSound := acts.positionSound (by
      have := subStep_positionSound (s := s) (by simpa [Lei.subStepDue, due] using on) sound
      rw [new, ← hl] at this
      exact this)
    obtain ⟨t, ht⟩ : ∃ t, t = leiEvent false l s := ⟨_, rfl⟩
    rw [← hl, ← ht] at event
    rw [← ht] at acts sound'
    obtain ⟨fields, -⟩ := acts.lei
    have sub : t.lei.sub = l.sub := by rw [fields]; rfl
    have reg : t.lei.countReg = l.countReg := by rw [fields]; rfl
    have position : t.lei.position = s.lei.position + 1#32 := by
      have : t.lei.position = l.position := by rw [fields]; rfl
      rw [this, hl]
      simp only [Lei.position, ← Nat.add_assoc, BitVec.ofNat_add]
    have timer : t.lei.subTimer = l.subTimer := by
      refine acts.timer_kept fun fault => ?_
      rcases acts.run_or_drained (by decide) with same | ⟨-, configured⟩
      · exact notFault (by rw [same] at fault; exact fault)
      · rw [configured] at fault; cases fault
    have reach : t.lei.reach = t.lei.position := by
      by_cases configured : t.run.mode = .configure
      · exact sound'.2.2.2 configured
      · rw [acts.reach_kept configured, position]
        show l.reach = _
        rw [hl]
    refine ⟨t, event, ?_, by rw [sub, hl], by rw [reg, hl], position, reach, timer.trans (congrArg Lei.subTimer hl), ?_, acts.fixed_besides_lei s.lei⟩
    · rw [← hl, ht]
      exact leiEvent_blocksAct _ _ _
    · rw [sub, hl]
      rw [hl] at fields
      exact fields
  · rw [event, if_neg]
    intro on
    obtain ⟨due, forward, valid, frontier, room, notFault⟩ := Lei.subStepDue_iff.mp on
    rcases missing with h | h | h | h | h | h
    · exact h due
    · exact h forward
    · rw [h] at valid; cases valid
    · exact h frontier
    · exact absurd room (Nat.not_lt.mpr h)
    · exact notFault h

/-- Settles O14. -/
theorem standstillHaltsTheLine : Obligations.StandstillHaltsTheLine := by
  intro s high idle
  have event := exec_standstill_high (State.held_of_high high)
  refine ⟨?_, fun early => ?_⟩
  · intro since watch due l
    have on : s.lei.standstillDue s.partTime = true := Lei.standstillDue_iff.mpr ⟨since, watch, due⟩
    have new : s.lei.standStill = l := by
      by_cases halted : s.lei.motion = .halted
      · simp [l, Lei.standStill, Lei.endRun, halted]
      · simp [l, Lei.standStill, Lei.turn, Lei.endRun, halted]
    have motion : l.motion = .halted := rfl
    have lreach : l.reach = s.lei.reach := rfl
    have stopped : l.subTimer = none := rfl
    have lposition : l.position = s.lei.position := rfl
    rw [on, if_pos rfl, new] at event
    clear_value l
    have acts := leiEvent_marks l s idle
    obtain ⟨fields, kept, timer, -⟩ := acts.lei
    have timer' : (leiEvent false l s).lei.subTimer = none :=
      (timer.resolve_right fun fault => absurd fault.1 (by decide)).trans stopped
    refine ⟨_, event, leiEvent_blocksAct _ _ _, ?_, fun mode => ?_, acts.fixed_besides_lei s.lei, fun still => ?_⟩
    · rw [timer'] at fields
      rw [fields, ← stopped]
      rfl
    · cases still : s.running with
      | true =>
        refine (acts.reach_kept fun configured => ?_).trans lreach
        rw [mode] at configured
        rw [State.running_of_configure configured] at still
        cases still
      | false => rw [(acts.stopped still).2]; exact lreach
    · rw [leiEvent_still _ _ _ still, motion, lposition, lreach]
      simp only [eq_comm]
  · rw [event, if_neg]
    intro on
    obtain ⟨since, watch, due⟩ := Lei.standstillDue_iff.mp on
    rcases early with none | ⟨since', watch', short⟩
    · rw [none] at watch; cases watch
    · rw [watch'] at watch
      cases watch
      exact absurd due (Nat.not_le.mpr short)

end Sys2Proof.Machine
end

section
/-! The events of the inputs and of the deadlines (spec/01, spec/02, spec/04, spec/07). -/

namespace Sys2Proof.Machine

/-! ### Illegal transitions and index edges (R3, R14, R15) -/

/-- Settles O11. -/
theorem illegalTransitionEndsTheRunOrReports : Obligations.IllegalTransitionEndsTheRunOrReports := by
  intro s high u
  have taken : takeIllegal s = if u.running then raiseCause .encoder u
      else u.offer (.encErr s.lei.position s.lei.encA.level s.lei.encB.level (!s.lei.encA.level) (!s.lei.encB.level)) := rfl
  rw [exec_illegalTransition_high (State.held_of_high high), taken]
  refine ⟨fun still => ?_, fun running => ?_⟩
  · have still' : u.running = false := still
    rw [if_neg (by rw [still']; exact Bool.false_ne_true)]
  · have running' : u.running = true := running
    obtain ⟨v, entered, raised⟩ := raiseCause_entered .encoder u running'
    exact ⟨v, entered, by rw [if_pos running', raised]; rfl⟩

/-- The comparison at an index edge that counts (R15). -/
theorem Lei.indexMismatch_iff {l : Lei} : l.indexMismatch = true ↔ l.indexRef = true ∧
    ¬ (l.indexCount ≤ l.cfg.perIndex + l.cfg.slack ∧ l.cfg.perIndex ≤ l.indexCount + l.cfg.slack) := by
  simp only [Lei.indexMismatch, Bool.and_eq_true, Bool.or_eq_true, decide_eq_true_eq]
  refine and_congr_right fun _ => ?_
  omega

theorem Lei.indexEdgeTaken_iff {l : Lei} : l.indexEdgeTaken = true ↔ l.cfg.perIndex ≠ 0 ∧ l.lastDir = some .forward := by
  simp [Lei.indexEdgeTaken]

/-- Settles O12: the edge is taken or not, matches or not, and a mismatch is a fault or not. -/
theorem indexEdgeComparesAndRestarts : Obligations.IndexEdgeComparesAndRestarts := by
  intro s high u w taken within fault reported
  have edge : takeIndex u = if s.lei.indexEdgeTaken then
        (if s.lei.indexMismatch && s.lei.cfg.indexFault && s.running then
          raiseCause .indexSlip (if s.lei.indexMismatch then
            reported (s.lei.indexMismatch && s.lei.cfg.indexFault && s.running) else w)
        else if s.lei.indexMismatch then reported (s.lei.indexMismatch && s.lei.cfg.indexFault && s.running) else w)
      else u := rfl
  have takenIff : s.lei.indexEdgeTaken = true ↔ taken := Lei.indexEdgeTaken_iff
  have mismatchIff : s.lei.indexMismatch = true ↔ s.lei.indexRef = true ∧ ¬ within := Lei.indexMismatch_iff
  have next : exec .indexEdge s = .next (serve (takeIndex u)) := exec_indexEdge_high (State.held_of_high high)
  rw [edge] at next
  refine ⟨fun no => ?_, fun yes same => ?_, fun yes ref other noFault => ?_, fun yes ref other yesFault => ?_⟩
  · rw [next, if_neg (mt takenIff.mp no)]
  · have matches' : s.lei.indexMismatch = false := Bool.eq_false_iff.mpr fun mismatch => by
      obtain ⟨ref, other⟩ := mismatchIff.mp mismatch
      rcases same with off | within
      · rw [off] at ref; cases ref
      · exact other within
    rw [next, if_pos (takenIff.mpr yes), matches']
    rfl
  · have quiet : (s.lei.cfg.indexFault && s.running) = false :=
      Bool.eq_false_iff.mpr fun both => noFault (by simpa using both)
    rw [next, if_pos (takenIff.mpr yes), mismatchIff.mpr ⟨ref, other⟩, Bool.true_and, quiet]
    rfl
  · obtain ⟨option, running⟩ := yesFault
    obtain ⟨v, entered, raised⟩ := raiseCause_entered .indexSlip (reported true)
      (show (reported true).running = true by rw [State.offer_running]; exact running)
    refine ⟨v, entered, ?_⟩
    rw [next, if_pos (takenIff.mpr yes), mismatchIff.mpr ⟨ref, other⟩, option, running]
    simp only [Bool.and_self, if_true]
    rw [raised]
    simp only [reported, State.offer_run, State.offer_lei, State.offer_iq, State.headNo]
    rfl

/-! ### Sense edges (R20, R24, R94) -/

/-- Edges reach no window that is closed, and none outside RUN and STOPPING (R94, R99). -/
theorem windowEdge_closed (b : Fin 2) (w : Fin 4) (input : Fin 4) (active : Bool) {s : State}
    (h : s.running = false ∨ (s.window b w).run.opened = false) : windowEdge b w input active s = s := by
  unfold windowEdge
  refine if_neg fun on => ?_
  simp only [Bool.and_eq_true] at on
  obtain ⟨⟨running, opened⟩, -⟩ := on
  rcases h with still | closed
  · rw [still] at running; cases running
  · rw [closed] at opened; cases opened

/-- Whichever order the users take an edge in, where no window takes it the detector alone acts. -/
theorem edge_detector_alone (input : Fin 4) (active : Bool) {s : State} (order : List Nat)
    (before : ∀ b w, windowEdge b w input active s = s)
    (after : ∀ b w, windowEdge b w input active (detectorEdge input active s) = detectorEdge input active s) :
    (arrange order allEdgeUsers).foldl (fun v x => x.take input active v) s = detectorEdge input active s := by
  obtain ⟨pre, post, split⟩ := List.append_of_mem ((arrange_perm order allEdgeUsers).mem_iff.mpr List.mem_cons_self)
  have perm := arrange_perm order allEdgeUsers
  rw [split] at perm
  have rest : (pre ++ post).Perm (allWindows.map fun p => .window p.1 p.2) := (List.perm_middle.symm.trans perm).cons_inv
  have windows : ∀ x ∈ pre ++ post, ∃ b w, x = .window b w := fun x mem => by
    obtain ⟨p, -, hp⟩ := List.mem_map.mp (rest.mem_iff.mp mem)
    exact ⟨p.1, p.2, hp.symm⟩
  have quiet : ∀ (l : List EdgeUser) (t : State), (∀ b w, windowEdge b w input active t = t) →
      (∀ x ∈ l, ∃ b w, x = .window b w) → l.foldl (fun v x => x.take input active v) t = t := by
    intro l t same
    induction l with
    | nil => intro _; rfl
    | cons x l ih =>
      intro all
      obtain ⟨b, w, rfl⟩ := all x List.mem_cons_self
      rw [List.foldl_cons, show EdgeUser.take input active (.window b w) t = t from same b w]
      exact ih fun y mem => all y (List.mem_cons_of_mem _ mem)
  rw [split, List.foldl_append, List.foldl_cons, quiet pre s before fun x mem => windows x (List.mem_append_left _ mem)]
  exact quiet post _ after fun x mem => windows x (List.mem_append_right _ mem)

theorem detectorEdge_unseen (input : Fin 4) (active : Bool) {s : State} (idle : s.mkd.state = .idle) :
    detectorEdge input active s = s := by
  unfold detectorEdge
  simp [idle, DetState.sees]

/-- The active level of an input is the other one after an edge of its filtered level (R20). -/
theorem toggleSense_active (i j : Fin 4) (s : State) :
    (toggleSense i s).senseActive j = if j = i then !s.senseActive i else s.senseActive j := by
  unfold State.senseActive toggleSense
  simp only [State.withPins_sns, State.withSns_sns]
  by_cases same : j = i
  · subst same
    rw [if_pos rfl]
    have there : (s.sns.set j.val { s.sns[j] with filt := (s.sns[j]).filt.toggle })[j] =
        { s.sns[j] with filt := (s.sns[j]).filt.toggle } := Vector.getElem_set_self _
    rw [there]
    unfold SenseInput.active Filt.toggle Filt.ofSample
    cases (s.sns[j]).polarity <;> rfl
  · rw [if_neg same]
    have other : (s.sns.set i.val { s.sns[i] with filt := (s.sns[i]).filt.toggle })[j] = s.sns[j] :=
      Vector.getElem_set_ne _ _ fun e => same (Fin.ext e.symm)
    rw [other]

/-- Settles O15. -/
theorem senseEdgeChangesOneInput : Obligations.SenseEdgeChangesOneInput := by
  intro i s high idle u
  have toggled : toggleSense i s = u := rfl
  have active : u.senseActive i = !s.senseActive i := (toggleSense_active i i s).trans (if_pos rfl)
  have taken : takeEdge i s = (arrange s.sched.edges allEdgeUsers).foldl (fun v x => x.take i (!s.senseActive i) v) u := by
    unfold takeEdge
    dsimp only
    rw [toggled, active]
    rfl
  have next := exec_senseEdge_high i (State.held_of_high high)
  rw [taken] at next
  refine ⟨?_, fun still => ?_⟩
  · have acts := edge_acts i (!s.senseActive i) (arrange s.sched.edges allEdgeUsers) u idle
    have fixed := (serve_fixed _).trans acts.fixed
    have sns := congrArg (fun v : State => v.sns) fixed
    have pins := congrArg (fun v : State => v.pins) fixed
    refine ⟨_, next, sns, pins, fixed, ?_, fun j other => ?_, arrange s.sched.edges allEdgeUsers, ?_, rfl⟩
    · exact (congrArg (fun v : Vector SenseInput 4 => (v[i]).active) sns).trans active
    · exact (congrArg (fun v : Vector SenseInput 4 => (v[j]).active) sns).trans
        ((toggleSense_active i j s).trans (if_neg other))
    · rw [windowPlaces_eq]
      exact arrange_perm _ _
  · have unseen : detectorEdge i (!s.senseActive i) u = u :=
      detectorEdge_unseen _ _ (idle fun run => by rw [State.running_of_run run] at still; cases still)
    have closed : ∀ b w, windowEdge b w i (!s.senseActive i) u = u := fun b w => windowEdge_closed b w _ _ (.inl still)
    rw [next, edge_detector_alone i _ _ closed (by rw [unseen]; exact closed), unseen]

theorem DetState.sees_iff {d : DetState} : d.sees = true ↔ d = .search ∨ d = .track ∨ d = .coast := by
  cases d <;> simp [DetState.sees]

theorem EdgeKind.marks_iff {k : EdgeKind} {active : Bool} :
    k.marks active = true ↔ k = .rising ∧ active = true ∨ k = .falling ∧ active = false := by
  cases k <;> cases active <;> simp [EdgeKind.marks]

/-- A mark edge with a minimum mark length (R24, R25). -/
theorem markEdge_eq (s : State) (long : s.mkd.cfg.minLength ≠ 0) : markEdge s =
    if s.mkd.candidate = none then
      if s.lei.position = s.lei.reach then s.withMkd { s.mkd with candidate := some s.lei.reach }
      else s.offer (.stray .retrace s.lei.position s.lei.reach s.mkd.state 0#32)
    else s := by
  unfold markEdge
  cases s.mkd.candidate with
  | some c => simp
  | none => simp [Lei.atFrontier, long, State.offerStray]

/-- Settles O16: with no window open the detector alone takes the edge. -/
theorem markEdgeOpensACandidate : Obligations.MarkEdgeOpensACandidate := by
  intro s i high sees input long closed u mark
  obtain ⟨active, hactive⟩ : ∃ active, active = !s.senseActive i := ⟨_, rfl⟩
  have level : u.senseActive i = active := ((toggleSense_active i i s).trans (if_pos rfl)).trans hactive.symm
  have markIff : s.mkd.cfg.edge.marks active = true ↔ mark := by
    rw [EdgeKind.marks_iff, hactive]
    simp [mark]
  have detected : detectorEdge i active u = if s.mkd.cfg.edge.marks active then markEdge u else levelLoss u := by
    unfold detectorEdge
    refine if_pos ?_
    rw [Bool.and_eq_true, beq_iff_eq]
    exact ⟨DetState.sees_iff.mpr sees, input⟩
  have next : ∀ t, detectorEdge i active u = t → (∀ b w, (t.window b w).run.opened = false) →
      exec (.senseEdge i) s = .next (serve t) := by
    intro t ht closed'
    have taken : takeEdge i s = (arrange s.sched.edges allEdgeUsers).foldl (fun v x => x.take i active v) u := by
      show (arrange u.sched.edges allEdgeUsers).foldl (fun v x => x.take i (u.senseActive i) v) u = _
      rw [level]
      rfl
    rw [exec_senseEdge_high i (State.held_of_high high), taken, edge_detector_alone (s := u) i active _
      (fun b w => windowEdge_closed b w _ _ (.inr (closed b w)))
      (fun b w => windowEdge_closed b w _ _ (.inr (by rw [ht]; exact closed' b w))), ht]
  have marked : mark → detectorEdge i active u = markEdge u := fun yes => by rw [detected, if_pos (markIff.mpr yes)]
  have lost : ¬ mark → detectorEdge i active u = levelLoss u := fun no => by rw [detected, if_neg (mt markIff.mp no)]
  have edge := markEdge_eq u long
  refine ⟨fun yes none frontier => ?_, fun yes none behind => ?_, fun yes some => ?_, fun no none => ?_,
    fun lead no candidate early => ?_⟩
  · refine next _ ((marked yes).trans ?_) closed
    rw [edge]
    exact (if_pos none).trans (if_pos frontier)
  · refine next _ ((marked yes).trans ?_) fun b w => by rw [State.offer_window]; exact closed b w
    rw [edge]
    exact (if_pos none).trans (if_neg behind)
  · refine next _ ((marked yes).trans ?_) closed
    rw [edge]
    exact if_neg some
  · refine next _ ((lost no).trans ?_) closed
    have none' : u.mkd.candidate = Option.none := none
    unfold levelLoss
    rw [none']
  · refine next _ ((lost no).trans ?_) fun b w => by rw [State.withMkd_window, State.offer_window]; exact closed b w
    have candidate' : u.mkd.candidate = some lead := candidate
    have early' : u.mkd.deferred = false := early
    unfold levelLoss
    rw [candidate']
    dsimp only
    rw [early', if_neg Bool.false_ne_true]
    unfold State.offerStray
    rw [State.offer_mkd]
    exact congrArg (State.withMkd _) (by rw [← early]; rfl)

/-! ### FLT_IN and the deadlines (R78, R122, R128) -/

/-- Settles O17. -/
theorem fltInActsByTheMode : Obligations.FltInActsByTheMode := by
  refine ⟨fun s high inactive => ?_, fun s high active => ?_⟩
  · intro u
    have next : exec .fltInActivation s = .next (serve (raiseCause .external u)) := by
      have free : s.fltActive = false := by unfold State.fltActive; rw [inactive]; rfl
      rw [exec_fltInActivation_high (State.held_of_high high), free]
      rfl
    refine ⟨fun configure => ?_, fun fault => ?_, fun running => ?_⟩
    · have mode : u.run.mode = .configure := configure
      rw [next]
      unfold raiseCause
      rw [mode]
    · have mode : u.run.mode = .fault := fault
      rw [next]
      unfold raiseCause
      rw [mode]
      rfl
    · obtain ⟨v, entered, raised⟩ := raiseCause_entered .external u running
      exact ⟨v, entered, by rw [next, raised]; rfl⟩
  · have held : s.fltActive = true := by unfold State.fltActive; rw [active]; rfl
    rw [exec_fltInRelease_high (State.held_of_high high), held]
    rfl

/-- Settles O18. -/
theorem maxOnDeadlineEndsThePulse : Obligations.MaxOnDeadlineEndsThePulse := by
  intro s b n d high on armed reached
  have ended : endPulseOf b n .deadline s =
      s.modStationRun b n fun r => { r with on := false, maxOn := none, lastEnd := .deadline } :=
    endPulseOf_of_on b n .deadline on
  refine ⟨?_, fun l => ?_⟩
  · rw [exec_maxOnDeadline_high b n (State.held_of_high high), if_pos (State.maxOnDue_iff.mpr ⟨on, d, armed, reached⟩), ended]
  · rw [serve_demandSet, ← ended]
    exact endPulseOf_demandSet b n .deadline s l

/-- Settles O20. -/
theorem drainDeadlineFlushesTheQueue : Obligations.DrainDeadlineFlushesTheQueue := by
  intro s d high legal stopping armed reached
  obtain ⟨v, flushed, run, flush⟩ := flushTo_flushed .drainTimeout s legal
  refine ⟨v, flushed, run, ?_⟩
  rw [exec_drainDeadline_high (State.held_of_high high), if_pos (State.drainDue_iff.mpr ⟨stopping, d, armed, reached⟩), flush,
    stopping]

end Sys2Proof.Machine
end

section
/-! The transmitter, execution and dispatch (spec/09). -/

namespace Sys2Proof.Machine

/-! ### What the transmitter takes (R145, R161) -/

theorem foldl_max_cls {c : Nat} : ∀ (q : List Notice) (m : Nat), m ≤ c → (∀ n ∈ q, n.cls ≤ c) →
    (m = c ∨ ∃ n ∈ q, n.cls = c) → q.foldl (fun m n => max m n.cls) m = c
  | [], m, _, _, reached => by
    rcases reached with same | ⟨n, mem, -⟩
    · exact same
    · cases mem
  | n :: q, m, low, below, reached => by
    have here := below n List.mem_cons_self
    refine foldl_max_cls q (max m n.cls) (by omega) (fun k mem => below k (List.mem_cons_of_mem _ mem)) ?_
    rcases reached with same | ⟨k, mem, same⟩
    · exact .inl (by omega)
    · rcases List.mem_cons.mp mem with rfl | mem
      · exact .inl (by omega)
      · exact .inr ⟨k, mem, same⟩

/-- The earliest notice of the highest class leaves the queue (R145). -/
theorem takeNotice_first {before after : List Notice} {n : Notice} (lower : ∀ m ∈ before, m.cls < n.cls)
    (most : ∀ m ∈ after, m.cls ≤ n.cls) : takeNotice (before ++ n :: after) = some (n, before ++ after) := by
  have highest : highestClass (before ++ n :: after) = n.cls := by
    refine foldl_max_cls _ 0 (Nat.zero_le _) (fun m mem => ?_) (.inr ⟨n, by simp, rfl⟩)
    rcases List.mem_append.mp mem with mem | mem
    · exact (lower m mem).le
    · rcases List.mem_cons.mp mem with rfl | mem
      · exact le_rfl
      · exact most m mem
  have skipped : ∀ m ∈ before, ¬ (m.cls == n.cls) = true := fun m mem => by simpa using (lower m mem).ne
  have found : (before ++ n :: after).find? (fun m => m.cls == n.cls) = some n := by
    rw [List.find?_append, List.find?_eq_none.mpr skipped]
    simp
  unfold takeNotice
  rw [highest, found]
  simp only [Option.some.injEq, Prod.mk.injEq, true_and]
  rw [List.eraseP_append_right _ skipped, List.eraseP_cons_of_pos (by simp)]

theorem serve_response {s : State} {r : Response} {rest : List Response} (idle : s.slk.tx = .idle)
    (waiting : s.slk.responses = r :: rest) :
    serve s = s.withSlk { s.slk with tx := .sending r.frame s.slk.rate r.role 0, responses := rest } := by
  unfold serve
  rw [idle, waiting]

theorem serve_notice {s : State} {n : Notice} {rest : List Notice} (idle : s.slk.tx = .idle) (none : s.slk.responses = [])
    (pause : s.slk.pause ≠ .softReset) (taken : takeNotice s.ntq.queue = some (n, rest)) :
    serve s = (s.withNtq { s.ntq with queue := rest }).withSlk
      { s.slk with tx := .sending n.frame s.slk.rate .plain 0 } := by
  unfold serve
  rw [idle, none]
  dsimp only
  rw [taken]
  cases p : s.slk.pause
  · rfl
  · rfl
  · exact absurd p pause

theorem serve_pausedForReset {s : State} (none : s.slk.responses = []) (pause : s.slk.pause = .softReset) :
    serve s = s := by
  unfold serve
  rw [none, pause]
  split <;> rfl

/-- Settles O23: the transmitter's choice by its cases; the layouts are those of the model, kind by kind. -/
theorem transmitterChoice : Obligations.TransmitterChoice := by
  refine ⟨fun s => ⟨serve_busy s, fun r rest idle waiting => serve_response idle waiting,
      fun before n after idle none pause queue lower most =>
        serve_notice idle none pause (by rw [queue]; exact takeNotice_first lower most), fun idle none last => ?_⟩,
    fun number cls time body => by cases body <;> rfl, fun _ _ _ _ _ _ _ _ => rfl, fun _ _ _ _ _ => rfl,
    fun _ _ _ _ => rfl, fun _ _ _ => rfl, fun _ _ _ _ => rfl, fun _ _ _ _ _ _ _ _ => rfl, fun _ _ _ _ => rfl,
    fun _ _ _ _ => rfl, fun _ _ _ _ _ _ _ _ _ => rfl, fun _ _ _ _ _ _ _ _ _ kind => ?_, fun _ _ => rfl,
    fun _ _ _ _ _ => rfl, fun _ => ⟨rfl, rfl, rfl, rfl⟩⟩
  · rcases last with empty | pause
    · exact serve_ready s fun _ => ⟨none, empty⟩
    · exact serve_pausedForReset none pause
  · rcases kind with _ | kind
    · rfl
    · cases kind <;> rfl

/-! ### Execution (R157, R160) -/

@[simp] theorem serve_requests (s : State) : (serve s).slk.requests = s.slk.requests := by
  obtain ⟨n, l, h, -, -, link⟩ := serve_cases s
  rw [h, State.withSlk_slk, link]

theorem executeWaiting_blocked {s : State} (h : s.canExecute = false) : executeWaiting s = s := by
  unfold executeWaiting
  cases s.slk.requests.length with
  | zero => rfl
  | succ fuel => unfold executeLoop; rw [h]; rfl

theorem State.canExecute_iff {s : State} : s.canExecute = true ↔
    s.slk.requests ≠ [] ∧ s.slk.responses.length < 4 ∧ s.slk.pause = .running := by
  unfold State.canExecute
  rw [Bool.and_eq_true, Bool.and_eq_true, decide_eq_true_eq]
  simp [Config.linkCapacity, and_assoc]

theorem State.cannotExecute {s : State}
    (h : s.slk.requests = [] ∨ s.slk.pause ≠ .running ∨ 4 ≤ s.slk.responses.length) : s.canExecute = false := by
  refine Bool.eq_false_iff.mpr fun can => ?_
  obtain ⟨waiting, room, running⟩ := State.canExecute_iff.mp can
  rcases h with none | paused | full
  · exact waiting none
  · exact paused running
  · omega

theorem executeWaiting_none {s : State} (h : s.slk.requests = []) : executeWaiting s = s :=
  executeWaiting_blocked (State.cannotExecute (.inl h))

/-- An execution leaves the commands that wait behind it. -/
theorem perform_requests (r : Request) (s : State) : (perform r s).slk.requests = s.slk.requests := by
  unfold perform
  split
  · rfl
  · obtain ⟨u, same, p, acts⟩ := execute_changes r s
    have kept : (execute r s).1.fixed.slk.requests = u.fixed.slk.requests := by rw [acts.fixed]
    exact kept.trans same.requests

theorem executeWaiting_next {s : State} {r : Request} {rest : List Request} (waiting : s.slk.requests = r :: rest)
    (running : s.slk.pause = .running) (room : s.slk.responses.length < 4) :
    executeWaiting s = executeWaiting (serve (perform r (s.withSlk { s.slk with requests := rest }))) := by
  have can : s.canExecute = true := State.canExecute_iff.mpr ⟨by rw [waiting]; simp, room, running⟩
  have head : executeHead s = perform r (s.withSlk { s.slk with requests := rest }) := by
    unfold executeHead
    rw [waiting]
  have left : (serve (perform r (s.withSlk { s.slk with requests := rest }))).slk.requests.length = rest.length := by
    rw [serve_requests, perform_requests]
    rfl
  unfold executeWaiting
  rw [left, waiting, List.length_cons]
  conv_lhs => unfold executeLoop
  rw [can, head]
  rfl

theorem finishLink_eq (s : State) :
    finishLink s = if s.sched.deferExec = true then serve s else executeWaiting (serve s) := by
  unfold finishLink
  dsimp only
  rw [serve_sched]

theorem finishLink_none {s : State} (h : s.slk.requests = []) : finishLink s = serve s := by
  rw [finishLink_eq, executeWaiting_none (s := serve s) (by rw [serve_requests]; exact h)]
  split <;> rfl

/-- A repeat of the last command executed is answered with a copy of its response (R160). -/
theorem perform_repeat {r : Request} {s : State} {c : Cached} (cache : s.slk.cache = some c) (seq : r.seq ≠ 0#8)
    (sameSeq : c.seq = r.seq) (sameKind : c.kind = r.kind) : perform r s = s.withSlk { s.slk with
      responses := s.slk.responses ++
        [{ seq := r.seq, kind := r.kind, reply := { c.reply with repeated := true }, role := .plain }] } := by
  have again : r.repeated s.slk.cache = some c.reply := by
    unfold Request.repeated
    rw [cache]
    exact if_pos ⟨seq, sameSeq, sameKind⟩
  unfold perform
  rw [again]
  rfl

theorem perform_fresh {r : Request} {s : State} (fresh : s.fresh r.seq r.kind) :
    perform r s = answer r (execute r s).2 (execute r s).1 := by
  unfold perform
  rw [fresh_not_repeated s r fresh]

/-- Settles O26. -/
theorem respondEffect : Obligations.RespondEffect := by
  intro r a s e l
  have answered : answer r a s = s.withSlk { l with responses := s.slk.responses ++ [e] } := by
    obtain ⟨reply, role⟩ := a
    cases role <;> rfl
  refine ⟨fun busy => ?_, fun idle none => ?_, ?_⟩
  · unfold respond
    rw [answered]
    exact serve_busy _ busy
  · unfold respond
    rw [answered, none]
    exact serve_response (rest := []) idle rfl
  · have flags : a.reply.flags = a.reply.repeated.toNat + 2 * a.reply.replaced.toNat + 4 * a.reply.alreadyStopping.toNat := by
      simp only [Reply.flags, flagByte]
      omega
    rw [← flags]
    rfl

/-- Settles O27. -/
theorem repeatIsAnsweredFromTheCache : Obligations.RepeatIsAnsweredFromTheCache := by
  intro i r c s request ready cache seq sameSeq sameKind
  rw [exec_link request (linkReady_held ready), submit_performed r s ready, perform_repeat cache seq sameSeq sameKind]

/-! ### Dispatch (R155, R156) -/

theorem dispatch_joins {r : Request} {s : State} (room : s.slk.requests.length < 4) :
    dispatch r s = s.withSlk { s.slk with requests := s.slk.requests ++ [r] } := if_pos room

theorem dispatch_busy {r : Request} {s : State} (full : ¬ s.slk.requests.length < 4) (pause : s.slk.pause ≠ .softReset)
    (room : s.slk.responses.length < 4) : dispatch r s = s.withSlk { s.slk with responses := s.slk.responses ++
      [{ seq := r.seq, kind := r.kind, reply := .plain .busy 0 [], role := .plain }] } :=
  (if_neg full).trans (if_pos ⟨pause, room⟩)

theorem dispatch_drops {r : Request} {s : State} (full : ¬ s.slk.requests.length < 4)
    (h : s.slk.pause = .softReset ∨ ¬ s.slk.responses.length < 4) :
    dispatch r s = s.withSlk { s.slk with busyDrops := min (s.slk.busyDrops + 1) 65535 } :=
  (if_neg full).trans (if_neg fun both => h.elim both.1 fun noRoom => noRoom both.2)

/-- A frame at a busy transmitter, with execution held up by a pause or by full queues, is dispatched and no more. -/
theorem submit_waits {r : Request} {s t : State} (dispatched : dispatch r s = t) (busy : t.slk.tx ≠ .idle)
    (blocked : t.canExecute = false) : submit r s = t := by
  unfold submit
  rw [dispatched, serve_busy t busy, executeWaiting_blocked blocked]

/-- Settles O28. -/
theorem fullRequestQueueAnswersBusy : Obligations.FullRequestQueueAnswersBusy := by
  refine ⟨fun i r s request high => ?_, fun s => ⟨fun blocked => executeWaiting_blocked (State.cannotExecute blocked),
    fun r rest waiting running room => executeWaiting_next waiting running room,
    fun r c cache seq sameSeq sameKind => perform_repeat cache seq sameSeq sameKind, fun r fresh => perform_fresh fresh,
    fun i r request ready => ?_, finishLink_eq s⟩⟩
  · have next := exec_link request (State.held_of_high high)
    refine ⟨fun room => dispatch_joins room, fun room busy blocked => ?_, fun full busy => ⟨fun paused room => ?_,
      fun held => ?_⟩, next⟩
    · rw [next, submit_waits (dispatch_joins room) busy (State.cannotExecute (.inr blocked))]
    · rw [next, submit_waits (dispatch_busy (by omega) (by rw [paused]; decide) room) busy
        (State.cannotExecute (.inr (.inl (by show s.slk.pause ≠ _; rw [paused]; decide))))]
      rfl
    · have blocked : s.slk.pause ≠ .running ∨ 4 ≤ s.slk.responses.length := by
        rcases held with pause | four
        · exact .inl (by rw [pause]; decide)
        · exact .inr (by omega)
      rw [next, submit_waits (dispatch_drops (by omega) (held.imp id (by omega))) busy (State.cannotExecute (.inr blocked))]
  · rw [exec_link request (linkReady_held ready), submit_performed r s ready]

/-! ### The end of a frame, and the watches (R154, R161, R162, R163) -/

/-- Settles O24. -/
theorem frameEndFreesTheTransmitter : Obligations.FrameEndFreesTheTransmitter := by
  intro s f q k high resumed
  have free := State.held_of_high high
  have ends := exec_transmitEnd_high free
  refine ⟨fun tx => ?_, fun new tx => ?_⟩
  · have ended : frameEnd s = finishLink (s.withSlk { s.slk with tx := .idle }) := by
      unfold frameEnd
      rw [tx]
    rw [ended] at ends
    refine ⟨ends.trans (congrArg _ (finishLink_eq _)),
      fun none => ends.trans (congrArg _ (finishLink_none (s := s.withSlk { s.slk with tx := .idle }) none)), ?_⟩
    simp only [exec, execLinkRateChange, unlessHeld_high _ free, tx]
  · intro u
    have ended : frameEnd s = finishLink u := by
      unfold frameEnd
      rw [tx]
      rfl
    have change : exec .linkRateChange s = .next (finishLink u) := by
      simp only [exec, execLinkRateChange, unlessHeld_high _ free, tx, ended]
    exact ⟨change.trans (congrArg _ (finishLink_eq u)),
      fun none => change.trans (congrArg _ (finishLink_none (s := u) none)), by rw [ends, change, ended]⟩

theorem RxLine.quiet_iff {line : RxLine} {gapFirst : Bool} : line.quiet gapFirst = true ↔
    line = .waitHigh ∨ line = .ready ∨ (gapFirst = true ∧ ∃ q bits, line = .receiving q 0 bits) := by
  cases line with
  | waitHigh => simp [RxLine.quiet]
  | ready => simp [RxLine.quiet]
  | sampled r => simp [RxLine.quiet]
  | receiving r ticks bits => simp [RxLine.quiet]

/-- Settles O25: an expiry acts exactly when its deadline is due. -/
theorem linkWatchesExpire : Obligations.LinkWatchesExpire := by
  refine ⟨fun s high => ?_, fun s d old high trial deadline recorded => ?_⟩
  · intro x
    have next := exec_gapWatch_high (State.held_of_high high)
    refine ⟨fun since phase from' late line => ?_, fun early => ?_⟩
    · have due : s.gapDue = true := State.gapDue_iff.mpr ⟨phase, RxLine.quiet_iff.mpr line, since, from', late⟩
      rw [next, if_pos due]
      rfl
    · rw [next, if_neg]
      intro due
      obtain ⟨phase, quiet, since, from', late⟩ := State.gapDue_iff.mp due
      have line := RxLine.quiet_iff.mp quiet
      rcases early with hunt | ⟨q, sampled⟩ | ⟨q, k, bits, receiving, later⟩ | ⟨since', from'', short⟩
      · exact phase hunt
      · rw [show s.slk.rx.line = _ from sampled] at line
        simp at line
      · rw [show s.slk.rx.line = _ from receiving] at line
        simp only [reduceCtorEq, RxLine.receiving.injEq, false_or] at line
        obtain ⟨first, -, -, -, zero, -⟩ := line
        rcases later with later | notFirst
        · exact later zero
        · rw [first] at notFirst; cases notFirst
      · rw [show s.slk.rx.gapFrom = _ from from''] at from'
        cases from'
        exact absurd late (Nat.not_le.mpr short)
  · have next := exec_trialDeadline_high (State.held_of_high high)
    have due : s.trialDue = atOrBeyond s.partTime d := by
      simp [State.trialDue, deadlineMet, trial, deadline]
    refine ⟨fun reached => ?_, fun early => ?_⟩
    · rw [next, due, reached, if_pos rfl]
      unfold revertRate
      rw [recorded]
      rfl
    · rw [next, due, early]
      rfl

/-! ### Refusals (R158) -/

/-- The four modes. -/
def allModes : List Mode := [.configure, .run, .stopping, .fault]

/-- The table of commands, row by row, is what the model's own definitions say of each command. -/
theorem commandTable_eq : commandTable = allCmds.map fun c => (c.code, c.length, allModes.filter c.takenIn) := rfl

theorem mem_modes_iff (c : Cmd) (m : Mode) : m ∈ allModes.filter c.takenIn ↔ c.takenIn m = true := by
  rw [List.mem_filter]
  refine and_iff_right ?_
  cases m <;> simp [allModes]

theorem ofKind_code_eq {kind : Byte} {c : Cmd} (h : Cmd.ofKind kind = some c) : c.code = kind := by
  have := List.find?_some h
  simpa using this

/-- A row of the table is the command that its code names. -/
theorem row_command {row : Byte × Nat × List Mode} (mem : row ∈ commandTable) :
    ∃ c, Cmd.ofKind row.1 = some c ∧ c.length = row.2.1 ∧ ∀ m, m ∈ row.2.2 ↔ c.takenIn m = true := by
  rw [commandTable_eq] at mem
  obtain ⟨c, -, rfl⟩ := List.mem_map.mp mem
  exact ⟨c, ofKind_code c, rfl, mem_modes_iff c⟩

theorem ofKind_unknown {kind : Byte} (h : ∀ row ∈ commandTable, row.1 ≠ kind) : Cmd.ofKind kind = none := by
  unfold Cmd.ofKind
  refine List.find?_eq_none.mpr fun c mem same => h (c.code, c.length, allModes.filter c.takenIn) ?_ (beq_iff_eq.mp same)
  rw [commandTable_eq]
  exact List.mem_map_of_mem mem

/-- The index in BAD_VALUE is that of the lowest-numbered field out of range (R158 step 4). -/
theorem firstBad_lowest {l : List Bool} {k : Nat} (bad : l[k]? = some false) (good : ∀ j < k, l[j]? = some true) :
    firstBad l = some (k + 1) := by
  have found : l.findIdx? (fun ok => !ok) = some k := by
    obtain ⟨inside, value⟩ := List.getElem?_eq_some_iff.mp bad
    refine List.findIdx?_eq_some_iff_getElem.mpr ⟨inside, by rw [value]; rfl, fun j before => ?_⟩
    obtain ⟨inside', value'⟩ := List.getElem?_eq_some_iff.mp (good j before)
    rw [value']
    exact Bool.false_ne_true
  unfold firstBad
  rw [found]
  rfl

/-- Settles O29: the steps of a refusal, with the fields' ranges from the table of the command. -/
theorem refusalsComeInTheirOrder : Obligations.RefusalsComeInTheirOrder := by
  intro i r s request ready fresh
  have next : exec i s = .next (respond r (execute r s).2 (execute r s).1) := by
    rw [exec_link request (linkReady_held ready), submit_ready r s ready fresh]
  have refused : ∀ {status : Status} {detail : Nat}, refusal r s.run.mode = some (status, detail) →
      exec i s = .next (respond r (.plain status detail []) s) := fun h => by
    rw [next, execute_refused r s _ _ h]
  refine ⟨fun unknown => refused ?_, fun row mem kind => ?_⟩
  · unfold refusal
    rw [ofKind_unknown unknown]
  · obtain ⟨c, named, length, modes⟩ := row_command mem
    rw [kind] at named
    have code := ofKind_code_eq named
    have outOfRange : r.payload.length = row.2.1 → s.run.mode ∈ row.2.2 → ∀ {k : Nat},
        firstBad (c.ranges r.payload) = some (k + 1) → exec i s = .next (respond r (.plain .badValue (k + 1) []) s) :=
      fun full taken k bad => refused (by
        unfold refusal
        rw [named]
        simp [length, full, (modes _).mp taken, bad])
    refine ⟨fun short => refused ?_, fun full other => refused ?_, fun full taken k bad good => ?_,
      fun d same full taken => ⟨fun k bad good => ?_, fun good => ?_⟩⟩
    · unfold refusal
      rw [named, ← length]
      exact if_pos (by rw [length]; exact short)
    · have not : c.takenIn s.run.mode = false := Bool.eq_false_iff.mpr (mt (modes _).mpr other)
      unfold refusal
      rw [named]
      simp [length, full, not]
    · refine outOfRange full taken ?_
      rw [firstBad_ranges c _ (full.trans length.symm), code]
      exact firstBad_lowest bad good
    · rw [named] at same
      cases same
      exact outOfRange full taken (firstBad_lowest bad good)
    · rw [named] at same
      cases same
      have inRange : firstBad (c.ranges r.payload) = none := by
        rw [firstBad_ranges c _ (full.trans length.symm), code]
        exact firstBad_none good
      rw [next, execute_taken r s c named (full.trans length.symm) ((modes _).mp taken) inRange]

end Sys2Proof.Machine
end

section
/-! The receiver: bytes and bits (spec/09 R149 to R153). -/

namespace Sys2Proof.Machine

/-! ### One byte, by the state of the receiver (Table 65) -/

section
variable {s : State} {v high : Byte} (rate : Fin 6)

theorem receiveAt_sync (phase : s.slk.rx.phase = .hunt) (sync : v = 0x5A#8) :
    receiveAt rate v s = modRx (Rx.begin rate s.partTime) s := by
  unfold receiveAt
  rw [phase]
  exact if_pos sync

theorem receiveAt_noise (phase : s.slk.rx.phase = .hunt) (noise : v ≠ 0x5A#8) : receiveAt rate v s = s := by
  unfold receiveAt
  rw [phase]
  exact if_neg noise

theorem receiveAt_length (phase : s.slk.rx.phase = .length) (low : 2 ≤ v.toNat) (up : v.toNat ≤ 126) :
    receiveAt rate v s = modRx (Rx.takeLength v s.partTime) s := by
  unfold receiveAt
  rw [phase]
  exact if_pos ⟨low, up⟩

theorem receiveAt_badLength (phase : s.slk.rx.phase = .length) (out : v.toNat < 2 ∨ 126 < v.toNat) : receiveAt rate v s =
    s.withSlk { s.slk with rx := s.slk.rx.hunt, lengthErrors := bump s.slk.lengthErrors } := by
  unfold receiveAt
  rw [phase]
  exact if_neg (by omega)

theorem receiveAt_body (phase : s.slk.rx.phase = .body) :
    receiveAt rate v s = modRx (Rx.takeBody v s.partTime) s := by
  unfold receiveAt
  rw [phase]

theorem receiveAt_checkHigh (phase : s.slk.rx.phase = .check) (first : s.slk.rx.checkHigh = none) :
    receiveAt rate v s = modRx (fun x => { x with checkHigh := some v, gapFrom := some s.partTime }) s := by
  unfold receiveAt
  rw [phase]
  dsimp only
  rw [first]

theorem receiveAt_check (phase : s.slk.rx.phase = .check) (second : s.slk.rx.checkHigh = some high) :
    receiveAt rate v s = checkFrame high v s := by
  unfold receiveAt
  rw [phase]
  dsimp only
  rw [second]

end

theorem checkFrame_bad {s : State} {high low : Byte} (differs : high ++ low ≠ s.slk.rx.crc) : checkFrame high low s =
    s.withSlk { s.slk with rx := s.slk.rx.hunt, crcErrors := bump s.slk.crcErrors } := by
  unfold checkFrame
  exact if_neg (Ne.symm differs)

/-- A good frame ends a trial whose rate it came at, and is dispatched (R153, R163). -/
theorem checkFrame_good {s : State} {high low seq kind : Byte} {payload : List Byte} (same : high ++ low = s.slk.rx.crc)
    (body : s.slk.rx.body = seq :: kind :: payload) : checkFrame high low s =
    dispatch { seq := seq, kind := kind, payload := payload }
      (endTrialAtFrame (s.withSlk { s.slk with rx := s.slk.rx.hunt })) := by
  have held : (s.withSlk { s.slk with rx := s.slk.rx.hunt }).slk.rx.body = seq :: kind :: payload := body
  unfold checkFrame
  dsimp only
  rw [if_pos same.symm]
  unfold goodFrame
  rw [held]

/-- The state in which the receiver acts on a byte: the byte receiver waits for RXD to be high. -/
def State.awaitHigh (s : State) : State := modRx (fun x => { x with line := .waitHigh }) s

theorem takeByte_eq (v : Byte) (s : State) :
    takeByte v s = finishLink (receiveAt (s.slk.rx.line.rate.getD s.slk.rate) v s.awaitHigh) := rfl

/-- The trial that a good frame at a rate ends, in the link's block. -/
def Slk.atFrame (l : Slk) (sync : Fin 6) : Slk := if l.link = .trial ∧ sync = l.rate then l.endTrial else l

theorem endTrialAtFrame_eq (s : State) : endTrialAtFrame s = s.withSlk (s.slk.atFrame s.slk.rx.syncRate) := by
  unfold endTrialAtFrame Slk.atFrame
  split <;> rfl

theorem Slk.atFrame_ends {l : Slk} {sync : Fin 6} (trial : l.link = .trial) (here : sync = l.rate) :
    l.atFrame sync = l.endTrial := if_pos ⟨trial, here⟩

theorem Slk.atFrame_keeps {l : Slk} {sync : Fin 6} (h : ¬ (l.link = .trial ∧ sync = l.rate)) : l.atFrame sync = l := if_neg h

theorem Slk.atFrame_rx (l : Slk) (sync : Fin 6) (x : Rx) :
    ({ l with rx := x } : Slk).atFrame sync = { l.atFrame sync with rx := x } := by
  unfold Slk.atFrame
  dsimp only
  split <;> rfl

/-- The second check byte of a good frame: the frame goes on to dispatch (R153, R163). -/
theorem exec_checkGood {s : State} {high low seq kind : Byte} {payload : List Byte} (free : s.held = false)
    (phase : s.slk.rx.phase = .check) (second : s.slk.rx.checkHigh = some high) (good : high ++ low = s.slk.rx.crc)
    (body : s.slk.rx.body = seq :: kind :: payload) : exec (.receiveByte low) s = .next (finishLink
      (dispatch { seq := seq, kind := kind, payload := payload } (s.withSlk { s.slk.atFrame s.slk.rx.syncRate with
        rx := { s.slk.rx with line := .waitHigh, phase := .hunt, gapFrom := none } }))) := by
  rw [exec_receiveByte_high low free, takeByte_eq, receiveAt_check (s := s.awaitHigh) _ phase second,
    checkFrame_good (s := s.awaitHigh) good body, endTrialAtFrame_eq, ← Slk.atFrame_rx]
  rfl

/-! ### The samples of RXD (R149) -/

theorem flagByte_testBit : ∀ (bits : List Bool) (j : Nat), (flagByte bits).testBit j = bits.getD j false
  | [], j => by simp [flagByte]
  | b :: bits, 0 => by cases b <;> simp [flagByte, Nat.testBit_zero, Nat.add_mod]
  | b :: bits, j + 1 => by
    have half : (b.toNat + 2 * flagByte bits) / 2 = flagByte bits := by
      have := Bool.toNat_lt b
      omega
    rw [flagByte, Nat.testBit_succ, half, flagByte_testBit bits j, List.getD_cons_succ]

/-- The byte that eight bits make, the least significant first. -/
theorem byteOf_getLsbD {bits : List Bool} {j : Nat} (h : j < 8) :
    (BitVec.ofNat 8 (flagByte bits)).getLsbD j = bits.getD j false := by
  rw [BitVec.getLsbD_ofNat, decide_eq_true h, Bool.true_and, flagByte_testBit]

section
variable {now rate : Fin 6} {rxd : Bool} {k : Nat} {bits : List Bool}

theorem RxLine.sample_early (h : k + 1 < middleOf rate (bits.length + 1)) :
    (RxLine.receiving rate k bits).sample now rxd = (.receiving rate (k + 1) bits, none) := if_pos h

theorem RxLine.sample_bit (h : middleOf rate (bits.length + 1) ≤ k + 1) (short : bits.length < 8) :
    (RxLine.receiving rate k bits).sample now rxd = (.receiving rate (k + 1) (bits ++ [rxd]), none) :=
  (if_neg (Nat.not_lt.mpr h)).trans (if_pos short)

theorem RxLine.sample_stop (h : middleOf rate (bits.length + 1) ≤ k + 1) (full : bits.length = 8) :
    (RxLine.receiving rate k bits).sample now rxd = (.sampled rate, some (BitVec.ofNat 8 (flagByte bits))) := by
  refine (if_neg (Nat.not_lt.mpr h)).trans ((if_neg (by omega)).trans ?_)
  rw [List.take_of_length_le (by omega)]

end

/-- The data bits of a byte up to the m-th, the least significant first. -/
def dataBits (v : Byte) (m : Nat) : List Bool := (List.range m).map v.getLsbD

@[simp] theorem dataBits_length (v : Byte) (m : Nat) : (dataBits v m).length = m := by simp [dataBits]

theorem dataBits_succ (v : Byte) (m : Nat) : dataBits v (m + 1) = dataBits v m ++ [v.getLsbD m] := by
  simp [dataBits, List.range_succ]

theorem dataBits_byte (v : Byte) : BitVec.ofNat 8 (flagByte (dataBits v 8)) = v := by
  refine BitVec.eq_of_getLsbD_eq fun j h => ?_
  rw [byteOf_getLsbD h, dataBits, List.getD_eq_getElem _ _ (by simpa using h)]
  simp

/-- At every rate of Table 64 the middle of a bit lies in that bit. -/
theorem bitsIn_middleOf (rate : Fin 6) {m : Nat} (h : m < 10) : bitsIn rate (middleOf rate m) = m :=
  (show ∀ (rate : Fin 6) (m : Fin 10), bitsIn rate (middleOf rate m) = m by decide) rate ⟨m, h⟩

theorem middleOf_lt_succ (rate : Fin 6) {m : Nat} (h : m < 10) : middleOf rate m < middleOf rate (m + 1) :=
  (show ∀ (rate : Fin 6) (m : Fin 10), middleOf rate m < middleOf rate (m + 1) by decide) rate ⟨m, h⟩

theorem middleOf_lt_stop (rate : Fin 6) {m : Nat} (h : m < 9) : middleOf rate m < middleOf rate 9 :=
  (show ∀ (rate : Fin 6) (m : Fin 9), middleOf rate m < middleOf rate 9 by decide) rate ⟨m, h⟩

/-- The receiver after `k` samples of a byte sent at a rate. -/
def received (rate : Fin 6) (v : Byte) (k : Nat) : RxLine :=
  (List.range k).foldl (fun x j => (x.sample rate (lineBit v (bitsIn rate j))).1) .ready

theorem received_succ (rate : Fin 6) (v : Byte) (k : Nat) :
    received rate v (k + 1) = ((received rate v k).sample rate (lineBit v (bitsIn rate k))).1 := by
  simp [received, List.range_succ]

/-- Up to the middle of the stop bit the receiver holds the data bits whose middles have passed. -/
theorem received_bits (rate : Fin 6) (v : Byte) : ∀ k, k < middleOf rate 9 →
    ∃ m ≤ 8, k < middleOf rate (m + 1) ∧ received rate v (k + 1) = .receiving rate k (dataBits v m)
  | 0, _ => by
    refine ⟨0, by omega, Nat.zero_lt_of_lt (middleOf_lt_succ rate (by omega)), ?_⟩
    simp [received, bitsIn, lineBit, RxLine.sample, dataBits]
  | k + 1, within => by
    obtain ⟨m, low, before, held⟩ := received_bits rate v k (by omega)
    rw [received_succ, held]
    by_cases early : k + 1 < middleOf rate (m + 1)
    · exact ⟨m, low, early, by rw [RxLine.sample_early (by rw [dataBits_length]; exact early)]⟩
    · have here : k + 1 = middleOf rate (m + 1) := by omega
      have more : m < 8 := by
        refine Nat.lt_of_le_of_ne low fun last => early ?_
        rw [last]
        exact within
      have level : lineBit v (bitsIn rate (k + 1)) = v.getLsbD m := by
        rw [here, bitsIn_middleOf rate (by omega), lineBit, if_neg (by omega), if_pos (by omega), Nat.add_sub_cancel]
      refine ⟨m + 1, more, by rw [here]; exact middleOf_lt_succ rate (by omega), ?_⟩
      rw [RxLine.sample_bit (by rw [dataBits_length]; omega) (by rw [dataBits_length]; exact more), level, dataBits_succ]

/-- A byte sent at a rate is received as itself, in the middle of its stop bit. -/
theorem received_byte (rate : Fin 6) (v : Byte) (level : Bool) :
    (received rate v (middleOf rate 9)).sample rate level = (.sampled rate, some v) := by
  obtain ⟨k, stop⟩ : ∃ k, middleOf rate 9 = k + 1 := Nat.exists_eq_succ_of_ne_zero (Nat.ne_zero_of_lt (middleOf_lt_stop rate
    (m := 0) (by omega)))
  obtain ⟨m, low, before, held⟩ := received_bits rate v k (by omega)
  have all : m = 8 := by
    by_contra other
    have := middleOf_lt_stop rate (m := m + 1) (by omega)
    omega
  subst all
  rw [stop, held, RxLine.sample_stop (by rw [dataBits_length]; exact stop.le) (dataBits_length v 8), dataBits_byte]

/-- Settles O21: part 1 by the receiver's state, part 2 by the middles of the bits. -/
theorem receiverTakesEachByte : Obligations.ReceiverTakesEachByte := by
  refine ⟨fun s v high waiting quiet => ?_, ?_⟩
  · intro x rate
    have free := State.held_of_high high
    have same : s.slk.rx.line.rate.getD s.slk.rate = rate := by
      cases line : s.slk.rx.line <;> simp [rate, line, RxLine.rate]
    have one : ∀ {t : State}, receiveAt rate v s.awaitHigh = t →
        t.slk.requests = [] → (t.slk.tx = .idle → t.slk.responses = [] ∧ t.ntq.queue = []) →
        exec (.receiveByte v) s = .next t := fun h => exec_byte s _ v free (by rw [same]; exact h)
    refine ⟨fun phase sync => ?_, fun phase noise => ?_, fun phase low up => ?_, fun phase out => ?_, fun phase => ?_,
      fun phase first => ?_, fun high phase second differs => ?_, fun high seq kind payload phase second good body => ?_⟩
    · exact one (receiveAt_sync (s := s.awaitHigh) _ phase sync) waiting quiet
    · exact one (receiveAt_noise (s := s.awaitHigh) _ phase noise) waiting quiet
    · exact one (receiveAt_length (s := s.awaitHigh) _ phase low up) waiting quiet
    · exact one (receiveAt_badLength (s := s.awaitHigh) _ phase out) waiting quiet
    · exact one (receiveAt_body (s := s.awaitHigh) _ phase) waiting quiet
    · exact one (receiveAt_checkHigh (s := s.awaitHigh) _ phase first) waiting quiet
    · exact one ((receiveAt_check (s := s.awaitHigh) _ phase second).trans (checkFrame_bad differs)) waiting quiet
    · have next := exec_checkGood free phase second good body
      intro taken trialOver dispatched
      refine ⟨fun trial here => ?_, fun trial other => ?_, fun steady => ?_⟩
      · rw [Slk.atFrame_ends trial here] at next
        exact next
      · rw [Slk.atFrame_keeps fun both => other both.2] at next
        exact next
      · rw [Slk.atFrame_keeps fun both => by simp [steady] at both] at next
        exact next
  · intro speed
    have rates : speed = baud := by
      funext rate
      fin_cases rate <;> rfl
    rw [rates]
    refine ⟨fun rate => ⟨rfl, rfl, rfl, rfl⟩, fun now rate rxd k bits => ?_, fun rate v => ?_⟩
    · intro middle
      have mid : middle = middleOf rate (bits.length + 1) := rfl
      refine ⟨fun early => RxLine.sample_early (by rw [← mid]; exact early),
        fun late short => RxLine.sample_bit (by rw [← mid]; exact late) short,
        fun late full => ⟨_, RxLine.sample_stop (by rw [← mid]; exact late) full, fun j => byteOf_getLsbD j.isLt⟩⟩
    · exact received_byte rate v _

/-! ### A frame (R150, R153) -/

/-- The receiver after one more byte of the body. -/
def Rx.bodyByte (now : Time) (x : Rx) (b : Byte) : Rx := Rx.takeBody b now { x with line := .waitHigh }

/-- The bytes of a body are taken one after another while as many are awaited. -/
theorem execAll_body : ∀ (bs : List Byte) (s : State) (rest : List Instr), s.held = false → s.slk.requests = [] →
    (s.slk.tx = .idle → s.slk.responses = [] ∧ s.ntq.queue = []) → (bs ≠ [] → s.slk.rx.phase = .body) →
    bs.length ≤ s.slk.rx.left → execAll (bs.map .receiveByte ++ rest) s =
      execAll rest (s.withSlk { s.slk with rx := bs.foldl (Rx.bodyByte s.partTime) s.slk.rx })
  | [], _, _, _, _, _, _, _ => rfl
  | b :: bs, s, rest, free, waiting, quiet, phase, left => by
    rw [List.length_cons] at left
    have taken := exec_byte s (s.withSlk { s.slk with rx := s.slk.rx.bodyByte s.partTime b }) b free
      (receiveAt_body (s := s.awaitHigh) _ (phase (List.cons_ne_nil _ _))) waiting quiet
    have more : bs ≠ [] → (if s.slk.rx.left ≤ 1 then RxPhase.check else .body) = .body := fun some => by
      have := List.length_pos_iff.mpr some
      rw [if_neg (by omega)]
    simp only [List.map_cons, List.cons_append, execAll, taken]
    exact execAll_body bs _ rest free waiting quiet more (Nat.le_sub_one_of_lt left)

theorem bodyBytes_hold (now : Time) : ∀ (bs : List Byte) (x : Rx), (bs.foldl (Rx.bodyByte now) x).crc = bs.foldl crcByte x.crc ∧
    (bs.foldl (Rx.bodyByte now) x).body = x.body ++ bs ∧ (bs.foldl (Rx.bodyByte now) x).syncRate = x.syncRate
  | [], x => ⟨rfl, (List.append_nil _).symm, rfl⟩
  | b :: bs, x => by
    obtain ⟨crc, body, sync⟩ := bodyBytes_hold now bs (x.bodyByte now b)
    exact ⟨crc, body.trans (by simp [Rx.bodyByte, Rx.takeBody]), sync⟩

/-- After the last byte of the body the check bytes are awaited. -/
theorem bodyBytes_last (now : Time) : ∀ (bs : List Byte) (x : Rx), bs ≠ [] → x.left = bs.length →
    (bs.foldl (Rx.bodyByte now) x).phase = .check ∧ (bs.foldl (Rx.bodyByte now) x).checkHigh = none
  | [], _, nonempty, _ => absurd rfl nonempty
  | [_], _, _, left => ⟨if_pos left.le, rfl⟩
  | b :: c :: bs, x, _, left =>
    bodyBytes_last now (c :: bs) (x.bodyByte now b) (List.cons_ne_nil _ _) (congrArg (· - 1) left)

/-- The state with another receiver. -/
def State.withRx (s : State) (x : Rx) : State := s.withSlk { s.slk with rx := x }

/-- SYNC and LEN begin a body, whose check value covers LEN (R152). -/
theorem execAll_start {s : State} {len : Byte} {sync : Fin 6} (rest : List Instr) (low : 2 ≤ len.toNat) (up : len.toNat ≤ 126)
    (free : s.held = false) (waiting : s.slk.requests = [])
    (quiet : s.slk.tx = .idle → s.slk.responses = [] ∧ s.ntq.queue = [])
    (hunt : s.slk.rx.phase = .hunt) (rate : s.slk.rx.line.rate.getD s.slk.rate = sync) :
    ∃ x : Rx, x.phase = .body ∧ x.left = len.toNat ∧ x.body = [] ∧ x.crc = crcByte crcStart len ∧ x.syncRate = sync ∧
      execAll (.receiveByte 0x5A#8 :: .receiveByte len :: rest) s = execAll rest (s.withRx x) := by
  let begun : Rx := Rx.begin sync s.partTime { s.slk.rx with line := .waitHigh }
  have syncTaken : exec (.receiveByte 0x5A#8) s = .next (s.withRx begun) :=
    exec_byte s _ _ free (by rw [rate]; exact receiveAt_sync (s := s.awaitHigh) _ hunt rfl) waiting quiet
  have lengthTaken : exec (.receiveByte len) (s.withRx begun) =
      .next (s.withRx (Rx.takeLength len s.partTime { begun with line := .waitHigh })) :=
    exec_byte _ _ _ free (receiveAt_length (s := (s.withRx begun).awaitHigh) _ rfl low up) waiting quiet
  refine ⟨Rx.takeLength len s.partTime { begun with line := .waitHigh }, rfl, rfl, rfl, rfl, rfl, ?_⟩
  simp only [execAll, syncTaken, lengthTaken]

theorem State.withRx_atFrame (s : State) (x y : Rx) (sync : Fin 6) :
    (s.withRx x).withSlk { (s.withRx x).slk.atFrame sync with rx := y } = s.withSlk { s.slk.atFrame sync with rx := y } := by
  show s.withSlk { ({ s.slk with rx := x } : Slk).atFrame sync with rx := y } = _
  rw [Slk.atFrame_rx]

/-- The two check bytes after a body that they fit (R153). -/
theorem execAll_check {s : State} {high low seq kind : Byte} {payload : List Byte} (free : s.held = false)
    (waiting : s.slk.requests = []) (quiet : s.slk.tx = .idle → s.slk.responses = [] ∧ s.ntq.queue = [])
    (phase : s.slk.rx.phase = .check) (first : s.slk.rx.checkHigh = none) (good : high ++ low = s.slk.rx.crc)
    (body : s.slk.rx.body = seq :: kind :: payload) :
    ∃ x : Rx, x.phase = .hunt ∧ execAll [.receiveByte high, .receiveByte low] s = .next (finishLink
      (dispatch { seq := seq, kind := kind, payload := payload }
        (s.withSlk { s.slk.atFrame s.slk.rx.syncRate with rx := x }))) := by
  let half : Rx := { s.slk.rx with line := .waitHigh, checkHigh := some high, gapFrom := some s.partTime }
  have highTaken : exec (.receiveByte high) s = .next (s.withRx half) :=
    exec_byte _ _ _ free (receiveAt_checkHigh (s := s.awaitHigh) _ phase first) waiting quiet
  have lowTaken := exec_checkGood (s := s.withRx half) free phase rfl good body
  rw [State.withRx_atFrame] at lowTaken
  refine ⟨{ half with phase := .hunt, gapFrom := none }, rfl, ?_⟩
  simp only [execAll, highTaken, lowTaken]
  rfl

/-- A whole frame at a receiver in HUNT reaches dispatch as it was sent. -/
theorem execAll_frame {s : State} {r : Request} {sync : Fin 6} (short : r.payload.length ≤ 124) (free : s.held = false)
    (waiting : s.slk.requests = []) (quiet : s.slk.tx = .idle → s.slk.responses = [] ∧ s.ntq.queue = [])
    (hunt : s.slk.rx.phase = .hunt) (rate : s.slk.rx.line.rate.getD s.slk.rate = sync) :
    ∃ x : Rx, x.phase = .hunt ∧
      execAll (({ seq := r.seq, kind := r.kind, payload := r.payload } : Frame).bytes.map .receiveByte) s =
        .next (finishLink (dispatch r (s.withSlk { s.slk.atFrame sync with rx := x }))) := by
  obtain ⟨seq, kind, payload⟩ := r
  dsimp only at short ⊢
  obtain ⟨len, lenIs⟩ : ∃ len, len = BitVec.ofNat 8 (payload.length + 2) := ⟨_, rfl⟩
  obtain ⟨body, bodyIs⟩ : ∃ body, body = seq :: kind :: payload := ⟨_, rfl⟩
  obtain ⟨check, checkIs⟩ : ∃ check, check = crc16 (len :: body) := ⟨_, rfl⟩
  have bytes : ({ seq := seq, kind := kind, payload := payload } : Frame).bytes.map Instr.receiveByte =
      .receiveByte 0x5A#8 :: .receiveByte len :: (body.map .receiveByte ++
        [.receiveByte (BitVec.ofNat 8 (check.toNat / 256)), .receiveByte (BitVec.ofNat 8 check.toNat)]) := by
    simp [Frame.bytes, Frame.checked, be2, checkIs, bodyIs, lenIs]
  have size : len.toNat = body.length := by
    rw [lenIs, bodyIs, BitVec.toNat_ofNat, List.length_cons, List.length_cons]
    omega
  have bound : 2 ≤ len.toNat ∧ len.toNat ≤ 126 := by
    rw [size, bodyIs, List.length_cons, List.length_cons]
    omega
  obtain ⟨x, phase, left, none, crc, begunAt, started⟩ := execAll_start
    (body.map .receiveByte ++ [.receiveByte (BitVec.ofNat 8 (check.toNat / 256)), .receiveByte (BitVec.ofNat 8 check.toNat)])
    bound.1 bound.2 free waiting quiet hunt rate
  obtain ⟨crc', held, same⟩ := bodyBytes_hold s.partTime body x
  obtain ⟨checking, first⟩ := bodyBytes_last s.partTime body x (by simp [bodyIs]) (left.trans size)
  have good : BitVec.ofNat 8 (check.toNat / 256) ++ BitVec.ofNat 8 check.toNat =
      (body.foldl (Rx.bodyByte s.partTime) x).crc := by
    rw [check_bytes check, checkIs, crc', crc]
    rfl
  obtain ⟨y, hunting, ended⟩ := execAll_check (s := s.withRx (body.foldl (Rx.bodyByte s.partTime) x)) free waiting quiet
    checking first good (held.trans (by rw [none, bodyIs]; rfl))
  rw [State.withRx_atFrame] at ended
  refine ⟨y, hunting, ?_⟩
  rw [bytes, started, execAll_body body (s.withRx x) _ free waiting quiet (fun _ => phase) (left.trans size).ge]
  rw [← begunAt, ← same]
  exact ended

/-! ### The bits of a frame (R149, R150) -/

theorem crcShift_eq (c : BitVec 16) : crcShift c = if c.getLsbD 15 = true then (c <<< 1) ^^^ 0x1021#16 else c <<< 1 := rfl

theorem Frame.bytes_eq (f : Frame) : f.bytes =
    [0x5A#8] ++ f.checked ++ [(crc16 f.checked).extractLsb' 8 8, (crc16 f.checked).extractLsb' 0 8] := by
  have halves : ∀ w : BitVec 16, be2 w.toNat = [w.extractLsb' 8 8, w.extractLsb' 0 8] := fun w => by
    have high : BitVec.ofNat 8 (w.toNat / 256) = w.extractLsb' 8 8 := by
      apply BitVec.eq_of_toNat_eq
      simp [Nat.shiftRight_eq_div_pow]
    have low : BitVec.ofNat 8 w.toNat = w.extractLsb' 0 8 := by
      apply BitVec.eq_of_toNat_eq
      simp
    rw [be2, high, low]
  simp [Frame.bytes, halves]

theorem State.txd_idle {s : State} (idle : s.slk.tx = .idle) : s.txd = true := by
  simp [State.txd, idle]

theorem State.txd_held {s : State} (held : s.held = true) : s.txd = true := by
  simp [State.txd, held]

theorem State.txd_sending {s : State} {f : Frame} {rate : Fin 6} {role : Role} {ticks : Nat} (free : s.held = false)
    (tx : s.slk.tx = .sending f rate role ticks) : s.txd = f.lineBit (bitsIn rate ticks) := by
  simp [State.txd, free, tx]

theorem Frame.lineBit_byte {f : Frame} {k : Nat} {before after : List Byte} {v : Byte} (bytes : f.bytes = before ++ v :: after)
    (here : k / 10 = before.length) : f.lineBit k = Machine.lineBit v (k % 10) := by
  have found : f.bytes[k / 10]? = some v := by
    rw [bytes, here]
    simp
  unfold Frame.lineBit
  rw [found]

theorem Frame.lineBit_after {f : Frame} {k : Nat} (h : f.bytes.length ≤ k / 10) : f.lineBit k = true := by
  unfold Frame.lineBit
  rw [List.getElem?_eq_none h]

/-- Settles O22. -/
theorem frameReceivedIsFrameSent : Obligations.FrameReceivedIsFrameSent := by
  refine ⟨fun s r short high waiting quiet hunt => ?_, fun f => f.bytes_eq, fun c b => rfl, fun s => ⟨State.txd_idle,
    fun low => State.txd_held (by simp [State.held, low]), fun f rate role ticks high tx => ?_⟩⟩
  · intro sync l
    have rate : s.slk.rx.line.rate.getD s.slk.rate = sync := by
      cases line : s.slk.rx.line <;> simp [sync, line, RxLine.rate]
    exact execAll_frame short (State.held_of_high high) waiting quiet hunt rate
  · intro speed bit
    have same : bit = bitsIn rate ticks := by
      have : speed = baud rate := by fin_cases rate <;> rfl
      simp only [bit, this]
      rfl
    rw [State.txd_sending (State.held_of_high high) tx, same]
    exact ⟨fun before v after bytes here => Frame.lineBit_byte bytes here, Frame.lineBit_after⟩

end Sys2Proof.Machine
end

section
/-! What the queries and the link's own commands answer (spec/09, spec/10). -/

namespace Sys2Proof.Machine

/-- A command that passes steps 1 to 4 of R158 answers by its action. -/
theorem exec_answers (c : Cmd) {i : Instr} {seq : Byte} {p : List Byte} (request : requestOf i = some ⟨seq, c.code, p⟩)
    {s t : State} {a : Answer} (ready : s.linkReady) (fresh : s.fresh seq c.code) (length : p.length = c.length)
    (mode : c.takenIn s.run.mode = true) (fields : firstBad (c.ranges p) = none) (run : c.run p s = (t, a)) :
    exec i s = .next (respond ⟨seq, c.code, p⟩ a t) := by
  rw [exec_taken c request s ready fresh length mode fields, run]

/-! ### Bytes and flags read and written (R168) -/

theorem byteAt_head {n : Nat} (h : n < 256) (p : List Byte) : byteAt (be1 n ++ p) 0 = n := by
  simp [byteAt, be1, Nat.mod_eq_of_lt h]

theorem byteAt_only {n : Nat} (h : n < 256) : byteAt (be1 n) 0 = n := byteAt_head h []

theorem byteAt_second (m : Nat) {n : Nat} (h : n < 256) (p : List Byte) : byteAt (be1 m ++ (be1 n ++ p)) 1 = n :=
  byteAt_head h p

theorem byteAt_last (m : Nat) {n : Nat} (h : n < 256) : byteAt (be1 m ++ be1 n) 1 = n := byteAt_head h []

theorem asFin_val {m : Nat} [NeZero m] (k : Fin m) : asFin m k.val = k := Fin.ext (Nat.mod_eq_of_lt k.isLt)

theorem flagByte_two (a b : Bool) : flagByte [a, b] = a.toNat + 2 * b.toNat := rfl

theorem flagByte_three (a b c : Bool) : flagByte [a, b, c] = a.toNat + 2 * b.toNat + 4 * c.toNat := by
  simp only [flagByte]
  omega

theorem flagByte_four (a b c d : Bool) : flagByte [a, b, c, d] = a.toNat + 2 * b.toNat + 4 * c.toNat + 8 * d.toNat := by
  simp only [flagByte]
  omega

/-! ### STATUS and LINK_STATUS (R134, R165) -/

theorem msLeft_none (now : Time) : msLeft none now = 0 := rfl

theorem msLeft_passed {d now : Time} (h : atOrBeyond now d = true) : msLeft (some d) now = 0 := by
  simp [msLeft, timeLeft, h, msRoundedUp]

theorem msLeft_coming {d now : Time} (h : atOrBeyond now d = false) : msLeft (some d) now = ((d - now).toNat + 999) / 1000 := by
  simp [msLeft, timeLeft, h, msRoundedUp]

theorem State.statusFlags_eq (s : State) : s.statusFlags =
    s.run.drain.isSome.toNat + 2 * (!s.run.flt.level).toNat + 4 * s.lei.valid.toNat := flagByte_three _ _ _

/-- Settles O31. -/
theorem statusAndLinkStatusReport : Obligations.StatusAndLinkStatusReport := by
  refine ⟨fun s seq ready fresh => ?_, fun s seq clear ready fresh => ?_,
    fun d now => ⟨msLeft_none now, msLeft_passed, msLeft_coming⟩, fun s => ⟨fun none => ?_, fun i rest items => ?_,
    fun front i items => ?_⟩, rfl, rfl, rfl, rfl, rfl, rfl, rfl, rfl, rfl, rfl, rfl, fun f => flagByte_four _ _ _ _,
    rfl, rfl, rfl, rfl, rfl, rfl, rfl, rfl, rfl, rfl, rfl, rfl⟩
  · rw [← s.statusFlags_eq]
    exact exec_answers .status rfl ready fresh rfl rfl rfl rfl
  · refine exec_answers .linkStatus rfl ready fresh rfl rfl ?_ ?_
    · cases clear <;> rfl
    · cases clear <;> rfl
  · simp [State.headNo, State.tailNo, none]
  · simp [State.headNo, items]
  · simp [State.tailNo, items]

/-! ### STN_READ and CHK_READ (R86, R101) -/

theorem cursorNo_eq (c : Option ItemNo) : cursorNo c = (c.getD 0#16).toNat := by cases c <;> rfl

theorem StationRun.record_eq (lead : Nat) (now : Time) (r : StationRun) : r.record lead now =
    be2 (r.cursor.getD 0#16).toNat ++
      be1 (r.held.toNat + 2 * r.on.toNat + 4 * (decide (r.endKind = .time)).toNat + 8 * r.maxOn.isSome.toNat) ++
      be3 lead ++ be1 r.pulseLine.val ++ be4 r.endTarget.toNat ++ be2 r.opening.toNat ++
      be2 ((r.maxOn.map fun m => timeLeft m now).getD 0) ++ be1 r.lastEnd.code := by
  unfold StationRun.record
  rw [cursorNo_eq, StationRun.flags, flagByte_four]
  rfl

theorem WindowRun.record_eq (r : WindowRun) : r.record =
    be2 (r.cursor.getD 0#16).toNat ++ be1 (r.opened.toNat + 2 * r.seenActive.toNat + 4 * r.seenInactive.toNat) ++
      be2 r.recItem.toNat ++ be4 r.recStart.toNat ++ be4 r.recClose.toNat ++ be1 r.last.code := by
  unfold WindowRun.record
  rw [cursorNo_eq, WindowRun.flags, flagByte_three]

/-- Two numbers below their limits leave no field out of range. -/
theorem firstBad_inside {m n : Nat} (a : Fin m) (b : Fin n) : firstBad [decide (a.val < m), decide (b.val < n)] = none := by
  rw [decide_eq_true a.isLt, decide_eq_true b.isLt]
  rfl

theorem run_stnRead (b : Fin 2) (n : Fin 16) (s : State) : Cmd.stnRead.run (be1 b.val ++ be1 n.val) s =
    (s, .ok ((s.station b n).cfg.record b n ++ (s.station b n).run.record (s.lead b n) s.partTime)) := by
  unfold Cmd.run runStnRead
  rw [byteAt_head (by omega), byteAt_last _ (by omega), asFin_val, asFin_val]

theorem run_chkRead (b : Fin 2) (w : Fin 4) (s : State) : Cmd.chkRead.run (be1 b.val ++ be1 w.val) s =
    (s, .ok ((s.window b w).cfg.record b w ++ (s.window b w).run.record)) := by
  unfold Cmd.run runChkRead
  rw [byteAt_head (by omega), byteAt_last _ (by omega), asFin_val, asFin_val]

/-- Settles O32. -/
theorem readsCarryDefinitionAndRunState : Obligations.ReadsCarryDefinitionAndRunState := by
  refine ⟨fun s seq b n ready fresh => ?_, fun s seq b w ready fresh => ?_⟩
  · intro d r left
    have fields : firstBad (Cmd.stnRead.ranges (be1 b.val ++ be1 n.val)) = none := by
      simp only [Cmd.ranges, stationReadRanges, byteAt_head (show b.val < 256 by omega),
        byteAt_last _ (show n.val < 256 by omega)]
      exact firstBad_inside b n
    have time : left = (r.maxOn.map fun m => timeLeft m s.partTime).getD 0 := by
      simp only [left]
      cases r.maxOn <;> rfl
    rw [time, ← StationRun.record_eq]
    exact exec_answers .stnRead rfl ready fresh rfl rfl fields (run_stnRead b n s)
  · intro d r
    have fields : firstBad (Cmd.chkRead.ranges (be1 b.val ++ be1 w.val)) = none := by
      simp only [Cmd.ranges, windowReadRanges, byteAt_head (show b.val < 256 by omega),
        byteAt_last _ (show w.val < 256 by omega)]
      exact firstBad_inside b w
    rw [← WindowRun.record_eq]
    exact exec_answers .chkRead rfl ready fresh rfl rfl fields (run_chkRead b w s)

/-! ### QUEUE_READ (R57, R172) -/

/-- Outcome codes in pairs, by index (R172). -/
theorem packNibbles_eq : ∀ l : List Nat, packNibbles l =
    (List.range (l.length / 2)).map fun k => BitVec.ofNat 8 (16 * l.getD (2 * k) 0 + l.getD (2 * k + 1) 0)
  | [] => rfl
  | [_] => by simp [packNibbles]
  | high :: low :: rest => by
    have pairs : (high :: low :: rest).length / 2 = rest.length / 2 + 1 := by
      simp only [List.length_cons]
      omega
    rw [pairs, List.range_succ_eq_map, packNibbles, packNibbles_eq rest, nibbles, Nat.mul_comm]
    simp [Nat.mul_add]

/-- The codes of a vector's entries, two to a byte. -/
theorem packNibbles_vector {α : Type} (code : α → Nat) (n : Nat) (v : Vector α (2 * n)) :
    packNibbles (v.toList.map code) = (List.finRange n).map fun k =>
      BitVec.ofNat 8 (16 * code (v[2 * k.val]'(by omega)) + code (v[2 * k.val + 1]'(by omega))) := by
  rw [packNibbles_eq]
  refine List.ext_getElem (by simp) fun k h h' => ?_
  have here : k < n := by simpa using h'
  simp [show 2 * k < 2 * n by omega, show 2 * k + 1 < 2 * n by omega]

theorem Item.record_eq (i : Item) : i.record =
    be2 i.no.toNat ++ be1 i.origin.code ++ be1 i.bank.val ++ be4 i.mark.toNat ++ be4 i.created.toNat ++
      be4 (i.tag.getD 0#32).toNat ++
      be1 (i.tag.isSome.toNat + 2 * i.closed.toNat + 4 * (decide (i.state = .decided)).toNat) ++ be1 i.verdict.code ++
      be1 i.source.code ++
      ((List.finRange 8).map fun k => BitVec.ofNat 8 (16 * (i.stations[2 * k.val]).code + (i.stations[2 * k.val + 1]).code)) ++
      (List.finRange 2).map fun k => BitVec.ofNat 8 (16 * (i.windows[2 * k.val]).code + (i.windows[2 * k.val + 1]).code) := by
  unfold Item.record
  rw [packNibbles_vector StationOutcome.code 8 i.stations, packNibbles_vector WindowOutcome.code 2 i.windows, Item.flags,
    flagByte_three]
  rfl

section
variable {start : ItemNo} {items : List Item}

theorem readFrom_found {before after : List Item} {i : Item} (named : start ≠ 0#16) (queue : items = before ++ i :: after)
    (here : i.no = start) (others : ∀ j ∈ before, j.no ≠ start) :
    startFound start items = true ∧ readFrom start items = i :: after := by
  have found : startFound start items = true := by simp [startFound, named, queue, here]
  refine ⟨found, ?_⟩
  unfold readFrom
  rw [if_pos found, queue, List.dropWhile_append_of_pos (by simpa using others), List.dropWhile_cons_of_neg (by simp [here])]

theorem readFrom_head (absent : start = 0#16 ∨ ∀ i ∈ items, i.no ≠ start) :
    startFound start items = false ∧ readFrom start items = items := by
  have notFound : startFound start items = false := by
    rcases absent with none | others
    · simp [startFound, none]
    · simp only [startFound, Bool.and_eq_false_iff, List.any_eq_false, beq_iff_eq]
      exact .inr others
  exact ⟨notFound, if_neg (by simp [notFound])⟩

end

theorem queueContent_eq {start : ItemNo} {count : Nat} {items rest : List Item} {found : Bool}
    (h : startFound start items = found ∧ readFrom start items = rest) : queueContent start count items =
      be1 (found.toNat + 2 * (decide (count < rest.length)).toNat) ++ be1 (min count rest.length) ++
        (rest.take count).flatMap Item.record := by
  obtain ⟨flag, follows⟩ := h
  unfold queueContent
  dsimp only
  rw [flag, follows, flagByte_two, List.length_take]

/-- Settles O33. -/
theorem queueReadReturnsRecordsInOrder : Obligations.QueueReadReturnsRecordsInOrder := by
  refine ⟨fun s seq start count low up ready fresh => ?_, Item.record_eq⟩
  intro p reply
  have counted : byteAt p 2 = count := byteAt_head (p := []) (by omega)
  have fields : firstBad (Cmd.queueRead.ranges p) = none := by
    simp only [Cmd.ranges, queueReadRanges, counted, low, up]
    rfl
  have run : Cmd.queueRead.run p s = (s, .ok (queueContent start count s.iq.items)) := by
    unfold Cmd.run runQueueRead
    rw [counted, num2_be2 _ start.isLt, BitVec.ofNat_toNat, BitVec.setWidth_eq]
  have answers := exec_answers (i := .queueRead seq p) .queueRead rfl ready fresh rfl rfl fields run
  refine ⟨fun before i after named queue here others => ?_, fun absent => ?_⟩
  · rw [queueContent_eq (readFrom_found named queue here others)] at answers
    exact answers
  · rw [queueContent_eq (readFrom_head absent)] at answers
    exact answers

/-! ### LINK_SET and PART_RESET (R136, R162, R164) -/

@[simp] theorem endTrialFirst_rate (s : State) : (endTrialFirst s).slk.rate = s.slk.rate := by
  unfold endTrialFirst
  split <;> rfl

theorem run_linkSet (new : Fin 6) (s : State) : Cmd.linkSet.run (be1 new.val) s =
    if new = s.slk.rate then (endTrialFirst s, .plain .noChange 0 (be1 s.slk.rate.val))
    else (endTrialFirst s, { reply := .plain .ok 0 (be1 s.slk.rate.val ++ be1 new.val), role := .rateChange new }) := by
  unfold Cmd.run runLinkSet
  dsimp only
  rw [byteAt_only (by omega), asFin_val, endTrialFirst_rate]

/-- Settles O34. -/
theorem linkSetAndPartResetPauseExecution : Obligations.LinkSetAndPartResetPauseExecution := by
  refine ⟨fun s seq new ready fresh => ?_, fun s seq ready fresh => exec_answers .partReset rfl ready fresh rfl rfl rfl rfl⟩
  intro u
  have fields : firstBad (Cmd.linkSet.ranges (be1 new.val)) = none := by
    simp only [Cmd.ranges, byteAt_only (show new.val < 256 by omega), decide_eq_true (Nat.le_of_lt_succ new.isLt)]
    rfl
  exact ⟨fun other => exec_answers .linkSet rfl ready fresh rfl rfl fields ((run_linkSet new s).trans (if_neg other)),
    fun same => exec_answers .linkSet rfl ready fresh rfl rfl fields ((run_linkSet new s).trans (if_pos same))⟩

end Sys2Proof.Machine
end

section
/-! The settings and the recipe banks by command (spec/01, spec/05, spec/06). -/

namespace Sys2Proof.Machine

/-! ### The line's settings (R16, R17, R18) -/

theorem configure_eq (c : LineCfg) (l : Lei) : l.configure c =
    if c.s = l.cfg.s then
      { l with cfg := c, valid := false, sameDir := none, subTimer := none, turning := l.countReg, indexRef := false }
    else
      { l with cfg := c, valid := false, sameDir := none, subTimer := none, turning := 0, indexRef := false
               countReg := 0, sub := 0, reach := 0#32 } := rfl

/-- Settles O35. -/
theorem lineSetReplacesTheSettings : Obligations.LineSetReplacesTheSettings := by
  intro s seq c range mode ready fresh
  have run : Cmd.lineSet.run c.payload s = (s.withLei (s.lei.configure c), .ok []) := by
    unfold Cmd.run runLineSet
    rw [LineCfg.ofPayload_payload c range]
  rw [← configure_eq]
  exact exec_answers (i := .lineSet seq c.payload) .lineSet rfl ready fresh rfl (beq_iff_eq.mpr mode)
    (lineRanges_payload c range) run

/-- A turning point moved with the count register keeps its distance from it, modulo the register's modulus. -/
theorem turning_moves {m t c r : Nat} (turning : t < m) (count : c < m) (register : r < m) :
    (c + m - (t + c + m - r) % m) % m = (r + m - t) % m := by
  have below : (t + c + m - r) % m < m := Nat.mod_lt _ (by omega)
  have same : (t + c + m - r) % m ≡ t + c + m - r [MOD m] := Nat.mod_modEq _ _
  refine Nat.ModEq.add_right_cancel' ((t + c + m - r) % m + t) ?_
  calc c + m - (t + c + m - r) % m + ((t + c + m - r) % m + t) = c + m + t := by omega
    _ ≡ c + m + t + m [MOD m] := (Nat.add_modEq_right).symm
    _ = r + m + (t + c + m - r) := by omega
    _ ≡ r + m + (t + c + m - r) % m [MOD m] := (Nat.ModEq.refl _).add same.symm
    _ = r + m - t + ((t + c + m - r) % m + t) := by omega

/-- POS_SET keeps the excursion (R18). -/
theorem preset_excursion (p : Pos) {l : Lei} (parts : l.partsInRange) (turning : l.turning < l.countModulus) :
    (l.preset p).excursion = l.excursion := by
  obtain ⟨⟨-, count, -⟩, -⟩ := preset_sound parts p
  obtain ⟨-, register, -⟩ := parts
  have same := turning_moves turning count register
  unfold Lei.excursion
  exact congrArg (fun d : Nat => if d < l.countModulus / 2 then (d : Int) else (d : Int) - l.countModulus) same

/-- Settles O36. -/
theorem posSetPresetsThePosition : Obligations.PosSetPresetsThePosition := by
  intro s seq p sound turning mode ready fresh
  have run : Cmd.posSet.run (be4 p.toNat) s = (s.withLei (s.lei.preset p), .ok []) := by
    unfold Cmd.run runPosSet
    rw [num4_be4 _ p.isLt, BitVec.ofNat_toNat, BitVec.setWidth_eq]
  exact ⟨s.lei.preset p,
    exec_answers (i := .posSet seq (be4 p.toNat)) .posSet rfl ready fresh rfl (beq_iff_eq.mpr mode) rfl run,
    preset_position p s.lei, rfl, rfl, rfl, rfl, preset_excursion p sound.parts turning, rfl⟩

/-! ### The inputs and the detector (R21, R22) -/

theorem Polarity.ofCode_code (p : Polarity) : Polarity.ofCode p.code = some p := by cases p <;> rfl

theorem Polarity.code_lt (p : Polarity) : p.code < 256 := by cases p <;> decide

theorem run_senseSet (i : Fin 4) (pol : Polarity) (filter : Byte) (s : State) :
    Cmd.senseSet.run (be1 i.val ++ be1 pol.code ++ [filter]) s =
      (s.withSns (s.sns.set i { s.sns[i] with polarity := pol, filterUs := filter.toNat }), .ok []) := by
  have input : asFin 4 (byteAt (be1 i.val ++ be1 pol.code ++ [filter]) 0) = i := by
    rw [List.append_assoc, byteAt_head (by omega), asFin_val]
  have polarity : Polarity.ofCode (byteAt (be1 i.val ++ be1 pol.code ++ [filter]) 1) = some pol := by
    rw [List.append_assoc, byteAt_second _ pol.code_lt, Polarity.ofCode_code]
  show runSenseSet _ s = _
  simp only [runSenseSet, SenseInput.configure, input, polarity]
  rfl

/-- Settles O37. -/
theorem senseSetAndMarkSetReplaceSettings : Obligations.SenseSetAndMarkSetReplaceSettings := by
  refine ⟨fun s seq i pol filter mode ready fresh => ?_, fun s seq c range mode ready fresh => ?_⟩
  · intro p
    have fields : firstBad (Cmd.senseSet.ranges p) = none := by
      refine firstBad_none ?_
      simp only [p, Cmd.ranges, senseRanges, List.append_assoc, byteAt_head (show i.val < 256 by omega),
        byteAt_second _ pol.code_lt, Polarity.ofCode_code]
      simp
    exact exec_answers .senseSet rfl ready fresh rfl (beq_iff_eq.mpr mode) fields (run_senseSet i pol filter s)
  · have run : Cmd.markSet.run c.payload s = (s.withMkd { s.mkd with cfg := c }, .ok []) := by
      unfold Cmd.run runMarkSet
      rw [MarkCfg.ofPayload_payload c range]
    exact exec_answers (i := .markSet seq c.payload) .markSet rfl ready fresh rfl (beq_iff_eq.mpr mode)
      (markRanges_payload c range) run

/-! ### The actuator lines (R87, R88) -/

/-- Changes of different lines one after another change each of them once. -/
theorem foldLines_each (g : Fin 16 → Line → Line) : ∀ (fs : List (Fin 16)) (s : State), fs.Nodup →
    ∃ v : Vector Line 16, fs.foldl (fun s n => s.modLine n (g n)) s = s.withAct v ∧
      ∀ n, v[n] = if n ∈ fs then g n s.act[n] else s.act[n]
  | [], s, _ => ⟨s.act, rfl, fun n => by simp⟩
  | l :: fs, s, nodup => by
    obtain ⟨fresh, nodup⟩ := List.nodup_cons.mp nodup
    obtain ⟨v, folded, each⟩ := foldLines_each g fs (s.modLine l (g l)) nodup
    refine ⟨v, folded, fun n => ?_⟩
    have here : (s.modLine l (g l)).act[n] = if l = n then g l s.act[l] else s.act[n] := by
      simp [State.modLine, Vector.getElem_set, Fin.ext_iff]
    rw [each n, here]
    by_cases same : l = n
    · subst same
      simp [fresh]
    · simp [same, Ne.symm same]

theorem Forced.ofCode_code (f : Forced) : Forced.ofCode f.code = some f := by cases f <;> rfl

theorem Forced.code_lt (f : Forced) : f.code < 256 := by cases f <;> decide

theorem run_outForce (l : Fin 16) (f : Forced) (s : State) : Cmd.outForce.run (be1 l.val ++ be1 f.code) s =
    (s.withAct (s.act.set l { s.act[l] with forced := f }), .ok []) := by
  unfold Cmd.run runOutForce
  rw [byteAt_head (by omega), byteAt_last _ f.code_lt, asFin_val, Forced.ofCode_code]
  rfl

/-- Settles O38. -/
theorem linesSetAndOutForceActOnTheLines : Obligations.LinesSetAndOutForceActOnTheLines := by
  refine ⟨fun s seq hi lo mode ready fresh => ?_, fun s seq l f mode ready fresh => ?_⟩
  · obtain ⟨v, folded, each⟩ := foldLines_each (fun n l => { l with polarity := linePolarity (num2 [hi, lo] 0) n })
      allStationNos s (by decide)
    have run : Cmd.linesSet.run [hi, lo] s = (s.withAct v, .ok []) := congrArg (fun t => (t, Answer.ok [])) folded
    refine ⟨v, exec_answers (i := .linesSet seq [hi, lo]) .linesSet rfl ready fresh rfl (beq_iff_eq.mpr mode) rfl run,
      fun n => ?_⟩
    rw [each n, if_pos (by fin_cases n <;> decide)]
    rfl
  · intro p
    have fields : firstBad (Cmd.outForce.ranges p) = none := by
      refine firstBad_none ?_
      simp only [p, Cmd.ranges, forceRanges, byteAt_head (show l.val < 256 by omega), byteAt_last _ f.code_lt,
        Forced.ofCode_code]
      simp
    exact exec_answers .outForce rfl ready fresh rfl (beq_iff_eq.mpr mode) fields (run_outForce l f s)

/-! ### The notice classes (R141) -/

theorem run_noticeClass (k : Fin 12) {cls : Nat} (small : cls < 256) (s : State) :
    Cmd.noticeClass.run (be1 (0x41 + k.val) ++ be1 cls) s =
      (s.withNtq { s.ntq with classes := s.ntq.classes.set k cls },
        .ok (be1 s.ntq.classes[k] ++ (s.ntq.classes.set k cls).toList.flatMap be1)) := by
  have slot : asFin 12 (byteAt (be1 (0x41 + k.val) ++ be1 cls) 0 - 0x41) = k := by
    rw [byteAt_head (by omega), Nat.add_sub_cancel_left, asFin_val]
  show runNoticeClass _ s = _
  simp only [runNoticeClass, slot, byteAt_last _ small]

/-- Settles O39. -/
theorem noticeClassSetsOneClass : Obligations.NoticeClassSetsOneClass := by
  intro s seq k cls up low fixed ready fresh p
  have fields : firstBad (Cmd.noticeClass.ranges p) = none := by
    have allowed : classAllowed (0x41 + k.val) cls = true := by
      rw [classAllowed_range, decide_eq_true_eq]
      refine ⟨up, fun code => low ?_, fun code => fixed ?_⟩
      · simp only [Fin.ext_iff]
        omega
      · exact Fin.ext (by omega)
    simp only [p, Cmd.ranges, classRanges, byteAt_head (show 0x41 + k.val < 256 by omega),
      byteAt_last _ (show cls < 256 by omega), allowed]
    refine firstBad_none ?_
    simp
    omega
  exact exec_answers .noticeClass rfl ready fresh rfl rfl fields (run_noticeClass k (by omega) s)

/-! ### Edits of a bank (R85, R100, R108, R109) -/

section
variable {s : State} {p : List Byte} {b : Fin 2} {f : Bank → Bank}

theorem editBank_taken (place : asFin 2 (byteAt p 0) = b) (may : editRefusal s.run.mode (s.bank b).state = none) :
    editBank p f s = (s.modBank b f, .ok []) := by
  unfold editBank
  dsimp only
  rw [place, may]

theorem editBank_refused {refusal : Status} (place : asFin 2 (byteAt p 0) = b)
    (h : editRefusal s.run.mode (s.bank b).state = some refusal) : editBank p f s = (s, .no refusal) := by
  unfold editBank
  dsimp only
  rw [place, h]

end

/-- What the three editing commands answer, by what the edit of the bank they name does. -/
structure EditsAnswer (s : State) (b : Fin 2) (a : Answer) (edited : (Bank → Bank) → State) : Prop where
  edit : ∀ (p : List Byte) (f : Bank → Bank), asFin 2 (byteAt p 0) = b → editBank p f s = (edited f, a)

section
variable {s : State} {b : Fin 2} {a : Answer} {edited : (Bank → Bank) → State} {seq : Byte}

theorem EditsAnswer.stnWrite (e : EditsAnswer s b a edited) (ready : s.linkReady) (n : Fin 16) {d : StationDef}
    (range : d.inRange) (fresh : s.fresh seq 0x18#8) : exec (.stnWrite seq (d.record b n)) s =
      .next (respond ⟨seq, 0x18#8, d.record b n⟩ a (edited (Bank.modStation n fun st => { st with cfg := d }))) := by
  obtain ⟨bank, station⟩ := StationDef.record_place b n d
  have run : Cmd.stnWrite.run (d.record b n) s = (edited (Bank.modStation n fun st => { st with cfg := d }), a) := by
    unfold Cmd.run runStnWrite
    rw [station, StationDef.ofPayload_record b n d range]
    exact e.edit _ _ bank
  exact exec_answers .stnWrite rfl ready fresh rfl rfl (stationRanges_record b n d range) run

theorem EditsAnswer.chkWrite (e : EditsAnswer s b a edited) (ready : s.linkReady) (w : Fin 4) {d : WindowDef}
    (range : d.inRange) (fresh : s.fresh seq 0x1A#8) : exec (.chkWrite seq (d.record b w)) s =
      .next (respond ⟨seq, 0x1A#8, d.record b w⟩ a (edited (Bank.modWindow w fun wd => { wd with cfg := d }))) := by
  obtain ⟨bank, window⟩ := WindowDef.record_place b w d
  have run : Cmd.chkWrite.run (d.record b w) s = (edited (Bank.modWindow w fun wd => { wd with cfg := d }), a) := by
    unfold Cmd.run runChkWrite
    rw [window, WindowDef.ofPayload_record b w d range]
    exact e.edit _ _ bank
  exact exec_answers .chkWrite rfl ready fresh rfl rfl (windowRanges_record b w d range) run

theorem EditsAnswer.bankParam (e : EditsAnswer s b a edited) (ready : s.linkReady) {dist : Nat} {v : Verdict}
    (range : dist < 2 ^ 24) (some : v ≠ .none) (fresh : s.fresh seq 0x1C#8) :
    exec (.bankParam seq (be1 b.val ++ be3 dist ++ be1 v.code)) s =
      .next (respond ⟨seq, 0x1C#8, be1 b.val ++ be3 dist ++ be1 v.code⟩ a
        (edited fun k => { k with closeDistance := dist, defaultVerdict := v })) := by
  have distance : num3 (be1 b.val ++ be3 dist ++ be1 v.code) 1 = dist := by
    simp [num3, num2, byteAt, be1, be3]
    omega
  have verdict : Verdict.ofCode (byteAt (be1 b.val ++ be3 dist ++ be1 v.code) 4) = Option.some v := by
    cases v
    · exact absurd rfl some
    · rfl
    · rfl
  have place : byteAt (be1 b.val ++ be3 dist ++ be1 v.code) 0 = b.val := by
    rw [List.append_assoc, byteAt_head (by omega)]
  have fields : firstBad (Cmd.bankParam.ranges (be1 b.val ++ be3 dist ++ be1 v.code)) = none := by
    refine firstBad_none ?_
    simp only [Cmd.ranges, bankParamRanges, place, verdict]
    simpa using Nat.le_of_lt_succ b.isLt
  have run : Cmd.bankParam.run (be1 b.val ++ be3 dist ++ be1 v.code) s =
      (edited fun k => { k with closeDistance := dist, defaultVerdict := v }, a) := by
    unfold Cmd.run runBankParam
    rw [distance, verdict]
    exact e.edit _ _ (by rw [place, asFin_val])
  exact exec_answers .bankParam rfl ready fresh rfl rfl fields run

end

/-- Settles O40. -/
theorem bankEditsReplaceTheContents : Obligations.BankEditsReplaceTheContents := by
  intro s seq b ready editable
  have may : editRefusal s.run.mode (s.bank b).state = none := by
    rcases editable with idle | ⟨active, mode⟩
    · rw [idle]; rfl
    · rw [active, mode]; rfl
  have e : EditsAnswer s b (.plain .ok 0 []) (s.modBank b) := ⟨fun p f place => editBank_taken place may⟩
  exact ⟨fun n d range fresh => e.stnWrite ready n range fresh, fun w d range fresh => e.chkWrite ready w range fresh,
    fun dist v range some fresh => e.bankParam ready range some fresh⟩

/-- Settles O41. -/
theorem bankEditsAreRefusedByTable46 : Obligations.BankEditsAreRefusedByTable46 := by
  intro s seq b refusal ready closed
  have refused : editRefusal s.run.mode (s.bank b).state = some refusal := by
    rcases closed with ⟨armed, rfl⟩ | ⟨draining, rfl⟩ | ⟨active, mode, rfl⟩
    · rw [armed]; rfl
    · rw [draining]; rfl
    · rw [active]
      exact if_neg mode
  have e : EditsAnswer s b (.plain refusal 0 []) fun _ => s := ⟨fun p f place => editBank_refused place refused⟩
  exact ⟨fun n d range fresh => e.stnWrite ready n range fresh, fun w d range fresh => e.chkWrite ready w range fresh,
    fun dist v range some fresh => e.bankParam ready range some fresh⟩

/-! ### Commit and cancel (R112, R115) -/

theorem byteAt_bank (b : Fin 2) : asFin 2 (byteAt (be1 b.val) 0) = b := by rw [byteAt_only (by omega), asFin_val]

theorem bankRanges_bank (b : Fin 2) : firstBad (bankRanges (be1 b.val)) = none := by
  unfold bankRanges
  rw [byteAt_only (by omega), decide_eq_true b.isLt]
  rfl

/-- What BANK_COMMIT does to its bank (R112). -/
def commitOf (b : Fin 2) (s : State) : State × Answer :=
  match (s.bank b).state with
  | .active => (s, .no .noChange)
  | .armed => (s, .no .bankArmed)
  | .draining => (s, .no .bankBusy)
  | .idle =>
    match (s.bank b).recipeFault s.mkd.cfg.pitch with
    | some fault => (s, .recipeInvalid fault)
    | none => (commitBank b s, .ok (be1 ((commitBank b s).bank b).state.code))

theorem commitDirect_active (b : Fin 2) (s : State) : ((commitDirect b s).bank b).state = .active := by
  simp [commitDirect, State.offerBank, Bank.activate]

/-- Settles O42. -/
theorem bankCommitSwitchesOrArms : Obligations.BankCommitSwitchesOrArms := by
  intro s seq b mode ready fresh r
  have answers : ∀ {t : State} {a : Answer}, commitOf b s = (t, a) →
      exec (.bankCommit seq (be1 b.val)) s = .next (respond r a t) := fun {t a} h => by
    have run : Cmd.bankCommit.run (be1 b.val) s = (t, a) := by
      rw [← h]
      unfold Cmd.run runBankCommit
      rw [byteAt_bank]
      rfl
    exact exec_answers .bankCommit rfl ready fresh rfl (bne_iff_ne.mpr mode) (bankRanges_bank b) run
  have idleCommits : ∀ {t : State} {n : Nat}, (s.bank b).state = .idle → (s.bank b).recipeFault s.mkd.cfg.pitch = none →
      commitBank b s = t → (t.bank b).state.code = n → commitOf b s = (t, .plain .ok 0 (be1 n)) := fun idle sound h state => by
    unfold commitOf
    rw [idle, sound, h, state]
    rfl
  refine ⟨fun active => answers ?_, fun armed => answers ?_, fun draining => answers ?_, fun why k idle fault => answers ?_,
    fun idle sound configure => ?_, fun idle sound running => answers ?_⟩
  · unfold commitOf; rw [active]; rfl
  · unfold commitOf; rw [armed]; rfl
  · unfold commitOf; rw [draining]; rfl
  · unfold commitOf; rw [idle, fault]; rfl
  · intro u
    exact answers (idleCommits idle sound (if_pos configure) (congrArg BankState.code (commitDirect_active b s)))
  · exact idleCommits idle sound (if_neg running) (by simp [BankState.code])

/-- What BANK_CANCEL does to its bank (R115). -/
def cancelOf (b : Fin 2) (s : State) : State × Answer :=
  match (s.bank b).state with
  | .armed => (s.modBank b fun k => { k with state := .idle }, .ok [])
  | .active =>
    match (s.bank b).activation.how with
    | .reset => (s, .no .noChange)
    | _ => (s, .plain .late 0 (be2 (s.bank b).activation.first.toNat))
  | _ => (s, .no .noChange)

/-- Settles O43. -/
theorem bankCancelWithdrawsAnArmedBank : Obligations.BankCancelWithdrawsAnArmedBank := by
  intro s seq b ready fresh r
  have answers : ∀ {t : State} {a : Answer}, cancelOf b s = (t, a) →
      exec (.bankCancel seq (be1 b.val)) s = .next (respond r a t) := fun {t a} h => by
    have run : Cmd.bankCancel.run (be1 b.val) s = (t, a) := by
      rw [← h]
      unfold Cmd.run runBankCancel
      rw [byteAt_bank]
      rfl
    exact exec_answers .bankCancel rfl ready fresh rfl rfl (bankRanges_bank b) run
  refine ⟨fun armed => answers ?_, fun active taken => answers ?_, fun other => answers ?_⟩
  · unfold cancelOf; rw [armed]; rfl
  · unfold cancelOf
    rw [active]
    cases how : (s.bank b).activation.how
    · exact absurd how taken
    · rfl
    · rfl
  · unfold cancelOf
    rcases other with idle | draining | ⟨active, how⟩
    · rw [idle]; rfl
    · rw [draining]; rfl
    · rw [active, how]; rfl

end Sys2Proof.Machine
end

section
/-! The recipe check (spec/06 R110, Table 48). -/

namespace Sys2Proof.Machine

/-! ### The lowest that fails -/

/-- The first value found along a list that runs through a type in the order of codes is that of the lowest code. -/
theorem findSome_lowest {α β : Type} (code : α → Nat) {l : List α} (sorted : l.Pairwise fun x y => code x < code y)
    (all : ∀ x, x ∈ l) (f : α → Option β) (b : β) :
    l.findSome? f = some b ↔ ∃ x, f x = some b ∧ ∀ y, code y < code x → f y = none := by
  constructor
  · intro found
    obtain ⟨before, x, after, split, value, skipped⟩ := List.findSome?_eq_some_iff.mp found
    refine ⟨x, value, fun y lower => ?_⟩
    rw [split, List.pairwise_append, List.pairwise_cons] at sorted
    have mem := all y
    rw [split, List.mem_append, List.mem_cons] at mem
    rcases mem with mem | rfl | mem
    · exact skipped y mem
    · exact absurd lower (lt_irrefl _)
    · exact absurd lower (sorted.2.1.1 y mem).le.not_gt
  · rintro ⟨x, value, lowest⟩
    obtain ⟨before, after, split⟩ := List.append_of_mem (all x)
    rw [split, List.pairwise_append] at sorted
    have skipped : before.findSome? f = none :=
      List.findSome?_eq_none_iff.mpr fun y mem => lowest y (sorted.2.2 y mem x List.mem_cons_self)
    rw [split, List.findSome?_append, skipped, List.findSome?_cons, value]
    rfl

/-- A search that finds the least number that fails, if there is one. -/
def FindsFirst (found : Option Nat) (fails : Nat → Prop) : Prop :=
  (∀ j, found = some j ↔ fails j ∧ ∀ i < j, ¬ fails i) ∧ (found = none ↔ ∀ i, ¬ fails i)

theorem FindsFirst.congr {found : Option Nat} {fails fails' : Nat → Prop} (h : FindsFirst found fails)
    (same : ∀ j, fails j ↔ fails' j) : FindsFirst found fails' := by
  have : fails = fails' := funext fun j => propext (same j)
  exact this ▸ h

/-- A search through every index in ascending order. -/
theorem find_findsFirst {n : Nat} {l : List (Fin n)} (sorted : l.Pairwise (· < ·)) (all : ∀ x, x ∈ l) (p : Fin n → Bool) :
    FindsFirst ((l.find? p).map (·.val)) fun j => ∃ x : Fin n, x.val = j ∧ p x = true := by
  have search : (l.find? p).map (·.val) = l.findSome? fun x => if p x = true then some x.val else none := by
    clear sorted all
    induction l with
    | nil => rfl
    | cons x l ih =>
      rw [List.find?_cons, List.findSome?_cons]
      cases p x with
      | true => rfl
      | false => exact ih
  refine ⟨fun j => ?_, ?_⟩
  · rw [search, findSome_lowest (fun x : Fin n => x.val) sorted all]
    constructor
    · rintro ⟨x, value, lower⟩
      have fails : p x = true := by
        by_contra ok
        simp [ok] at value
      have here : x.val = j := by simpa [fails] using value
      refine ⟨⟨x, here, fails⟩, ?_⟩
      rintro _ before ⟨y, rfl, fails'⟩
      have := lower y (by omega)
      simp [fails'] at this
    · rintro ⟨⟨x, rfl, fails⟩, lowest⟩
      refine ⟨x, by simp [fails], fun y before => ?_⟩
      have ok : ¬ p y = true := fun fails' => lowest y.val before ⟨y, rfl, fails'⟩
      exact if_neg ok
  · rw [Option.map_eq_none_iff, List.find?_eq_none]
    constructor
    · rintro none _ ⟨x, rfl, fails⟩
      exact none x (all x) fails
    · exact fun none x _ fails => none x.val ⟨x, rfl, fails⟩

theorem firstStation_findsFirst (k : Bank) (bad : StationDef → Bool) : FindsFirst (k.firstStation bad) fun j =>
    ∃ n : Fin 16, n.val = j ∧ (k.stations[n]).cfg.enabled = true ∧ bad (k.stations[n]).cfg = true :=
  (find_findsFirst (by decide) (by decide) _).congr fun j => by simp only [Bool.and_eq_true]

theorem firstWindow_findsFirst (k : Bank) (bad : WindowDef → Bool) : FindsFirst (k.firstWindow bad) fun j =>
    ∃ w : Fin 4, w.val = j ∧ (k.windows[w]).cfg.enabled = true ∧ bad (k.windows[w]).cfg = true :=
  (find_findsFirst (by decide) (by decide) _).congr fun j => by simp only [Bool.and_eq_true]

/-! ### The six steps (Table 48) -/

/-- The reasons, in the order of the steps. -/
def allReasons : List RecipeReason :=
  [.leadExceedsOffset, .verdictTooEarly, .windowDisabled, .windowTooLate, .windowOverPitch, .offsetOverflow]

theorem mem_allReasons (why : RecipeReason) : why ∈ allReasons := by cases why <;> decide

/-- The station or window at which a step of the check fails. -/
def Bank.failingAt (k : Bank) (pitch : Nat) : RecipeReason → Option Nat
  | .leadExceedsOffset => k.firstStation fun d => decide (d.offset < d.leadLimit)
  | .verdictTooEarly => k.firstStation fun d => d.verdictCondition && decide (d.offset - d.leadLimit < k.closeDistance)
  | .windowDisabled => k.firstStation fun d => d.windowCondition && !(k.windows[d.window]).cfg.enabled
  | .windowTooLate => k.firstStation fun d =>
      d.windowCondition &&
        decide (d.offset - d.leadLimit < (k.windows[d.window]).cfg.start + (k.windows[d.window]).cfg.length)
  | .windowOverPitch => k.firstWindow fun d => pitch != 0 && decide (pitch ≤ d.length)
  | .offsetOverflow => k.firstStation fun d =>
      d.action == .pulse && d.lengthKind == .distance && decide (2 ^ 24 - 1 < d.offset + d.length)

theorem Bank.recipeSteps_eq (k : Bank) (pitch : Nat) :
    k.recipeSteps pitch = allReasons.map fun why => (why, k.failingAt pitch why) := rfl

theorem Bank.recipeFault_eq (k : Bank) (pitch : Nat) : k.recipeFault pitch =
    allReasons.findSome? fun why => (k.failingAt pitch why).map fun j => (why, j) := by
  rw [Bank.recipeFault, Bank.recipeSteps_eq, List.findSome?_map]
  rfl

theorem Bank.recipeFault_none {k : Bank} {pitch : Nat} :
    k.recipeFault pitch = none ↔ ∀ why, k.failingAt pitch why = none := by
  rw [Bank.recipeFault_eq, List.findSome?_eq_none_iff]
  simp [mem_allReasons]

theorem Bank.recipeFault_some {k : Bank} {pitch : Nat} {why : RecipeReason} {j : Nat} :
    k.recipeFault pitch = some (why, j) ↔
      k.failingAt pitch why = some j ∧ ∀ other, other.code < why.code → k.failingAt pitch other = none := by
  rw [Bank.recipeFault_eq, findSome_lowest RecipeReason.code (by decide) mem_allReasons]
  simp only [Option.map_eq_some_iff, Option.map_eq_none_iff, Prod.mk.injEq]
  constructor
  · rintro ⟨_, ⟨_, value, rfl, rfl⟩, lower⟩
    exact ⟨value, lower⟩
  · rintro ⟨value, lower⟩
    exact ⟨why, ⟨j, value, rfl, rfl⟩, lower⟩

/-! ### What each step tests -/

/-- An enabled station or window that meets the failure condition of a step of Table 48. -/
def Bank.fails (k : Bank) (pitch : Nat) (why : RecipeReason) (j : Nat) : Prop := match why with
  | .windowOverPitch => ∃ w : Fin 4, w.val = j ∧ (k.windows[w]).cfg.enabled = true ∧ pitch ≠ 0 ∧
      pitch ≤ (k.windows[w]).cfg.length
  | _ => ∃ n : Fin 16, n.val = j ∧ (k.stations[n]).cfg.enabled = true ∧
    let d := (k.stations[n]).cfg
    match why with
    | .leadExceedsOffset => d.offset < d.leadLimit
    | .verdictTooEarly => (d.condition = .accepted ∨ d.condition = .rejected) ∧ d.offset - d.leadLimit < k.closeDistance
    | .windowDisabled => (d.condition = .windowPass ∨ d.condition = .windowFail) ∧
        (k.windows[d.window]).cfg.enabled = false
    | .windowTooLate => (d.condition = .windowPass ∨ d.condition = .windowFail) ∧
        d.offset - d.leadLimit < (k.windows[d.window]).cfg.start + (k.windows[d.window]).cfg.length
    | .windowOverPitch => False
    | .offsetOverflow => d.action = .pulse ∧ d.lengthKind = .distance ∧ 2 ^ 24 - 1 < d.offset + d.length

theorem StationDef.verdictCondition_iff (d : StationDef) :
    d.verdictCondition = true ↔ d.condition = .accepted ∨ d.condition = .rejected := by
  simp [StationDef.verdictCondition]

theorem StationDef.windowCondition_iff (d : StationDef) :
    d.windowCondition = true ↔ d.condition = .windowPass ∨ d.condition = .windowFail := by
  simp [StationDef.windowCondition]

/-- Each step finds the lowest-numbered station or window that meets its failure condition. -/
theorem failingAt_findsFirst (k : Bank) (pitch : Nat) (why : RecipeReason) :
    FindsFirst (k.failingAt pitch why) (k.fails pitch why) := by
  cases why with
  | leadExceedsOffset =>
    rw [Bank.failingAt]
    refine FindsFirst.congr (firstStation_findsFirst k _) fun j => ?_
    simp only [Bank.fails, decide_eq_true_eq]
  | verdictTooEarly =>
    rw [Bank.failingAt]
    refine FindsFirst.congr (firstStation_findsFirst k _) fun j => ?_
    simp only [Bank.fails, Bool.and_eq_true, decide_eq_true_eq, StationDef.verdictCondition_iff]
  | windowDisabled =>
    rw [Bank.failingAt]
    refine FindsFirst.congr (firstStation_findsFirst k _) fun j => ?_
    simp only [Bank.fails, Bool.and_eq_true, StationDef.windowCondition_iff, Bool.not_eq_true']
  | windowTooLate =>
    rw [Bank.failingAt]
    refine FindsFirst.congr (firstStation_findsFirst k _) fun j => ?_
    simp only [Bank.fails, Bool.and_eq_true, decide_eq_true_eq, StationDef.windowCondition_iff]
  | windowOverPitch =>
    rw [Bank.failingAt]
    refine FindsFirst.congr (firstWindow_findsFirst k _) fun j => ?_
    simp only [Bank.fails, Bool.and_eq_true, decide_eq_true_eq, bne_iff_ne]
  | offsetOverflow =>
    rw [Bank.failingAt]
    refine FindsFirst.congr (firstStation_findsFirst k _) fun j => ?_
    simp only [Bank.fails, Bool.and_eq_true, decide_eq_true_eq, beq_iff_eq, and_assoc]

/-- The check passes exactly when nothing fails at any step. -/
theorem recipeFault_none_iff {k : Bank} {pitch : Nat} : k.recipeFault pitch = none ↔ ∀ why j, ¬ k.fails pitch why j :=
  Bank.recipeFault_none.trans (forall_congr' fun why => (failingAt_findsFirst k pitch why).2)

/-- What no step of the check finds wrong with a station. -/
def Bank.stationPasses (k : Bank) (d : StationDef) : Prop :=
  d.leadLimit ≤ d.offset ∧
    ((d.condition = .accepted ∨ d.condition = .rejected) → k.closeDistance ≤ d.offset - d.leadLimit) ∧
    ((d.condition = .windowPass ∨ d.condition = .windowFail) → (k.windows[d.window]).cfg.enabled = true ∧
      (k.windows[d.window]).cfg.start + (k.windows[d.window]).cfg.length ≤ d.offset - d.leadLimit) ∧
    (d.action = .pulse → d.lengthKind = .distance → d.offset + d.length ≤ 2 ^ 24 - 1)

theorem passes_iff {k : Bank} {pitch : Nat} : (∀ why j, ¬ k.fails pitch why j) ↔
    (∀ n : Fin 16, (k.stations[n]).cfg.enabled = true → k.stationPasses (k.stations[n]).cfg) ∧
      ∀ w : Fin 4, (k.windows[w]).cfg.enabled = true → pitch ≠ 0 → (k.windows[w]).cfg.length < pitch := by
  constructor
  · intro none
    have station := fun why (n : Fin 16) => none why n.val
    refine ⟨fun n enabled => ⟨?_, fun c => ?_, fun c => ⟨?_, ?_⟩, fun pulse distance => ?_⟩, fun w enabled pitched => ?_⟩
    · exact Nat.le_of_not_lt fun h => none .leadExceedsOffset n ⟨n, rfl, enabled, h⟩
    · exact Nat.le_of_not_lt fun h => none .verdictTooEarly n ⟨n, rfl, enabled, c, h⟩
    · exact Bool.of_not_eq_false fun h => none .windowDisabled n ⟨n, rfl, enabled, c, h⟩
    · exact Nat.le_of_not_lt fun h => none .windowTooLate n ⟨n, rfl, enabled, c, h⟩
    · exact Nat.le_of_not_lt fun h => none .offsetOverflow n ⟨n, rfl, enabled, pulse, distance, h⟩
    · exact Nat.lt_of_not_le fun h => none .windowOverPitch w ⟨w, rfl, enabled, pitched, h⟩
  · rintro ⟨stations, windows⟩ why j
    cases why with
    | leadExceedsOffset =>
      rintro ⟨n, -, enabled, low⟩
      obtain ⟨lead, -⟩ := stations n enabled
      exact absurd low lead.not_gt
    | verdictTooEarly =>
      rintro ⟨n, -, enabled, c, low⟩
      obtain ⟨-, verdict, -⟩ := stations n enabled
      exact absurd low (verdict c).not_gt
    | windowDisabled =>
      rintro ⟨n, -, enabled, c, off⟩
      obtain ⟨-, -, window, -⟩ := stations n enabled
      rw [(window c).1] at off
      cases off
    | windowTooLate =>
      rintro ⟨n, -, enabled, c, late⟩
      obtain ⟨-, -, window, -⟩ := stations n enabled
      exact absurd late (window c).2.not_gt
    | windowOverPitch =>
      rintro ⟨w, -, enabled, pitched, long⟩
      exact absurd long (windows w enabled pitched).not_ge
    | offsetOverflow =>
      rintro ⟨n, -, enabled, pulse, distance, far⟩
      obtain ⟨-, -, -, reach⟩ := stations n enabled
      exact absurd far (reach pulse distance).not_gt

/-- Settles O44. -/
theorem recipeCheckFollowsTable48 : Obligations.RecipeCheckFollowsTable48 := by
  refine ⟨fun k pitch => recipeFault_none_iff.trans passes_iff, fun k pitch => ?_⟩
  intro fails why j
  have same : fails = k.fails pitch := by
    funext why j
    cases why <;> rfl
  have lower : (∀ other, other.code < why.code → k.failingAt pitch other = none) ↔
      ∀ other i, other.code < why.code → ¬ k.fails pitch other i :=
    forall_congr' fun other => (imp_congr_right fun _ => (failingAt_findsFirst k pitch other).2).trans forall_comm
  rw [same, Bank.recipeFault_some, (failingAt_findsFirst k pitch why).1 j, lower, and_assoc]

end Sys2Proof.Machine
end

section
/-! Run control by command (spec/07 R123 to R132). -/

namespace Sys2Proof.Machine

/-! ### RUN_START -/

theorem State.fltActive_high {s : State} (h : s.run.flt.level = true) : s.fltActive = false := by simp [State.fltActive, h]

theorem State.fltActive_low {s : State} (h : s.run.flt.level = false) : s.fltActive = true := by simp [State.fltActive, h]

/-- The start of a run, block by block (R124). -/
theorem startRun_eq (s : State) : startRun s =
    ((((s.withRun { s.run with mode := .run }).withLei { s.lei with reach := s.lei.position, indexRef := false }).withMkd
        { cfg := s.mkd.cfg, state := if s.mkd.cfg.enable then .search else .off, expected := 0#32, missRun := 0,
          lastAccepted := none, candidate := none, deferred := false, lastCreated := 0#16 }).withAct
        (mapV (fun l => { l with forced := .none }) s.act)).offer
      (.mode .run .configure .start 0 0#16 0#16 s.lei.position s.lei.position s.activeBank none) := rfl

theorem startContent_eq (s : State) : startContent (startRun s) =
    be1 1 ++ be1 s.activeBank.val ++ be4 s.lei.position.toNat ++ be2 s.iq.next.toNat := by
  obtain ⟨run, iq, banks, lei⟩ := startRun_rest s
  have active : (startRun s).activeBank = s.activeBank := by
    unfold State.activeBank State.bank
    rw [banks]
  unfold startContent
  rw [run, iq, lei, active]
  rfl

/-- Settles O45. -/
theorem runStartBeginsTheRun : Obligations.RunStartBeginsTheRun := by
  intro s seq mode ready fresh r
  have answers : ∀ {t : State} {a : Answer}, runRunStart s = (t, a) → exec (.runStart seq []) s = .next (respond r a t) :=
    fun run => exec_answers .runStart rfl ready fresh rfl (beq_iff_eq.mpr mode) rfl run
  refine ⟨fun low => answers ?_, fun why k high fault => answers ?_, fun high sound => ?_⟩
  · unfold runRunStart
    rw [if_pos (State.fltActive_low low)]
    rfl
  · unfold runRunStart
    rw [if_neg (by simp [State.fltActive_high high]), fault]
    rfl
  · refine ⟨mapV (fun l => { l with forced := .none }) s.act, fun l => mapV_getElem_fin _ _ _, answers ?_⟩
    rw [← startRun_eq, ← startContent_eq]
    unfold runRunStart
    rw [if_neg (by simp [State.fltActive_high high]), sound]
    rfl

/-! ### RUN_STOP DRAIN -/

/-- An entry to CONFIGURE with no item queued leaves what a flush leaves (R127). -/
theorem enterConfigure_flushed (reason : ModeReason) {s : State} (legal : s.banksLegal) (empty : s.iq.items = [])
    (counts : ∀ b, (s.bank b).count = 0) :
    ∃ v, s.flushed v ∧ v.run = { s.run with mode := .configure, drain := none } ∧
      enterConfigure reason .nothing s = v.offer (.mode .configure s.run.mode reason 0 0#16 0#16 s.lei.position
        s.lei.position v.activeBank none) := by
  obtain ⟨v, entered, run, iq, mkd, lei, station, window, line, notice, bank⟩ := enterConfigure_eq reason .nothing s
  have fixed : v.fixed = s.fixed := by
    rw [← offer_fixed v, ← entered]
    exact enterConfigure_fixed reason .nothing s
  have kept : ∀ b, (s.bank b).state = if (s.bank b).state = .draining then .idle else (s.bank b).state := fun b => by
    rw [if_neg fun draining => (legal.2 b).2 draining (counts b)]
  refine ⟨v, ⟨by rw [run], by rw [run], ?_, mkd, lei, fixed, fun b n => ?_, fun b w => ?_, line, fun b => ?_,
    fun b armed => ?_, fun unarmed b => ?_, notice⟩, run, entered⟩
  · rw [iq, ← empty]
  · rw [station]
    cases on : (s.station b n).run.on <;> simp [StationRun.dropCursor, StationRun.endPulse, StationRun.stopped, on]
  · rw [window]
    rfl
  · rw [(bank b).1, counts]
  · rw [armedBank_of_state legal armed] at bank
    obtain ⟨-, state, activation⟩ := bank b
    obtain ⟨-, other, -⟩ := bank (otherBank b)
    refine ⟨?_, ?_, ?_⟩
    · rw [state]; simp [configuredBank, Bank.activate]
    · rw [activation]; simp [configuredBank, Bank.activate]
    · rw [other]; simp [configuredBank, otherBank_ne]
  · rw [armedBank_of_none unarmed] at bank
    obtain ⟨-, state, activation⟩ := bank b
    exact ⟨activation, state.trans (kept b)⟩

/-- The number of an item, 0 for none. -/
def numberOf (i : Option Item) : Nat := ((i.map (·.no)).getD 0#16).toNat

/-- What RUN_STOP DRAIN answers about a state, by what the answer depends on. -/
theorem drainContent_eq {t : State} {mode : Mode} {drain : Option Time} {items : List Item} {now : Time}
    (run : t.run.mode = mode ∧ t.run.drain = drain) (queue : t.iq.items = items) (time : t.partTime = now) :
    drainContent t = be1 mode.code ++ be1 items.length ++ be2 (numberOf items.head?) ++ be2 (numberOf items.getLast?) ++
      be1 drain.isSome.toNat ++ be2 (msLeft drain now) := by
  obtain ⟨here, left⟩ := run
  unfold drainContent State.headNo State.tailNo
  rw [here, left, queue, time]
  rfl

/-- Where a stop with a drain limit leads, before the drain's end (R125). -/
def draining (limit : Nat) (s : State) : State :=
  ((s.withRun { s.run with mode := .stopping
                           drain := if limit = 0 then none else some (s.partTime + BitVec.ofNat 32 (limit * 1000)) }).withMkd
    s.mkd.dropped).offer (.mode .stopping .run .drain 0 0#16 0#16 s.lei.position s.lei.reach s.activeBank none)

theorem startDrain_draining (limit : Nat) (s : State) : startDrain limit s =
    if s.iq.items = [] then enterConfigure .drained .nothing (draining limit s) else draining limit s := by
  obtain ⟨u, drain, started, deadline, ends⟩ := startDrain_eq limit s
  have same : u = draining limit s := by
    rw [started, deadline]
    rfl
  rw [ends, same]
  simp only [List.isEmpty_iff]

theorem run_drain (limit : Nat) (small : limit ≤ 65535) (s : State) (mode : s.run.mode = .run) :
    Cmd.runStop.run (0#8 :: be2 limit) s = (startDrain limit s, .ok (drainContent (startDrain limit s))) := by
  have limited : num2 (0#8 :: be2 limit) 1 = limit := num2_be2 limit (by omega) []
  show runRunStop _ s = _
  have kind : byteAt (0#8 :: be2 limit) 0 = 0 := rfl
  unfold runRunStop runDrain
  rw [limited, if_pos kind, if_neg (by rw [mode]; decide)]

/-- Settles O46. -/
theorem drainStopsCreationAndKeepsTheItems : Obligations.DrainStopsCreationAndKeepsTheItems := by
  intro s seq limit small ready fresh r deadline number left content u
  have fields : firstBad (Cmd.runStop.ranges (0#8 :: be2 limit)) = none := rfl
  have answers : s.run.mode.running = true → ∀ {t : State} {a : Answer}, Cmd.runStop.run (0#8 :: be2 limit) s = (t, a) →
      exec (.runStopDrain seq (be2 limit)) s = .next (respond r a t) :=
    fun mode t a run => exec_answers .runStop rfl ready fresh rfl mode fields run
  have contentIs : ∀ {t : State} {mode : Mode} {drain : Option Time}, t.run.mode = mode ∧ t.run.drain = drain →
      t.iq.items = s.iq.items → t.partTime = s.partTime → drainContent t = content mode drain :=
    fun {t mode drain} run queue time => by
      have numbers : number = numberOf := by
        funext i
        cases i <;> rfl
      have time' : left drain = msLeft drain s.partTime := by
        cases drain with
        | none => rfl
        | some d => cases passed : atOrBeyond s.partTime d <;> simp [left, msLeft, timeLeft, msRoundedUp, passed]
      rw [drainContent_eq run queue time, ← time', ← numbers]
  have runs : u.run = { s.run with mode := .stopping, drain := deadline } := State.offer_run _ _
  have items : u.iq = s.iq := State.offer_iq _ _
  have time : u.partTime = s.partTime := by simp [u]
  refine ⟨fun mode some => ?_, fun mode none legal counts => ?_, fun mode => ?_⟩
  · have stop : startDrain limit s = u := (startDrain_draining limit s).trans (if_neg some)
    refine answers (by rw [mode]; rfl) ?_
    rw [run_drain limit small s mode, stop, contentIs ⟨by rw [runs], by rw [runs]⟩ (by rw [items]) time]
    rfl
  · have stop : startDrain limit s = enterConfigure .drained .nothing u := (startDrain_draining limit s).trans (if_pos none)
    have bank : ∀ b, u.bank b = s.bank b := fun b => State.offer_bank _ _ b
    have legal' : u.banksLegal := by
      obtain ⟨one, others⟩ := legal
      refine ⟨by rw [bank, bank]; exact one, fun b => ?_⟩
      rw [bank]
      exact ⟨fun _ => by rw [State.running, runs]; rfl, (others b).2⟩
    obtain ⟨v, flushed, run, entered⟩ := enterConfigure_flushed .drained legal' (by rw [items, none]) fun b => by
      rw [bank, counts b, none]
      rfl
    have queue : v.iq.items = s.iq.items := by
      obtain ⟨-, -, iq, -⟩ := flushed
      rw [iq, none]
    have time' : v.partTime = s.partTime := by
      obtain ⟨-, -, -, -, -, fixed, -⟩ := flushed
      have : v.fixed.partTime = u.fixed.partTime := by rw [fixed]
      exact this.trans time
    rw [runs, show u.lei = s.lei from State.offer_lei _ _] at entered
    rw [runs] at run
    refine ⟨v, flushed, run, answers (by rw [mode]; rfl) ?_⟩
    rw [run_drain limit small s mode, stop, entered]
    rw [contentIs (mode := .configure) (drain := Option.none) ⟨by rw [State.offer_run, run], by rw [State.offer_run, run]⟩
      (by rw [State.offer_iq, queue]) (by simp [time'])]
    rfl
  · refine answers (by rw [mode]; rfl) ?_
    show runRunStop _ s = _
    have kind : byteAt (0#8 :: be2 limit) 0 = 0 := rfl
    unfold runRunStop runDrain
    rw [if_pos kind, if_pos mode, contentIs ⟨mode, rfl⟩ rfl rfl]
    rfl

/-! ### RUN_STOP FLUSH and FAULT_CLEAR -/

/-- Settles O47. -/
theorem flushAndFaultClearEmptyTheQueue : Obligations.FlushAndFaultClearEmptyTheQueue := by
  intro s seq legal ready gone
  refine ⟨fun running fresh => ?_, fun mode fresh => ?_⟩
  · obtain ⟨v, flushed, run, entered⟩ := flushTo_flushed .flushed s legal
    refine ⟨v, flushed, run, ?_⟩
    have answer : Cmd.runStop.run [1#8, 0#8, 0#8] s = (flushTo .flushed s,
        .ok (be1 (flushTo .flushed s).run.mode.code ++ gone)) := rfl
    rw [entered, State.offer_run, run] at answer
    exact exec_answers (i := .runStopFlush seq [0#8, 0#8]) .runStop rfl ready fresh rfl running rfl answer
  · have answers : ∀ {t : State} {a : Answer}, runFaultClear s = (t, a) →
        exec (.faultClear seq []) s = .next (respond ⟨seq, 0x26#8, []⟩ a t) :=
      fun run => exec_answers .faultClear rfl ready fresh rfl (beq_iff_eq.mpr mode) rfl run
    refine ⟨fun low => answers ?_, fun high => ?_⟩
    · unfold runFaultClear
      rw [if_pos (State.fltActive_low low)]
      rfl
    · obtain ⟨v, flushed, run, entered⟩ :=
        flushTo_flushed .cleared (s.withRun { s.run with faults := .empty, first := none }) legal
      refine ⟨v, flushed, run, answers ?_⟩
      unfold runFaultClear
      rw [if_neg (by simp [State.fltActive_high high]), entered, State.withRun_run]
      dsimp only
      rw [mode]
      rfl

end Sys2Proof.Machine
end

section
/-! The item queue by command, and creations (spec/03 R39 to R57). -/

namespace Sys2Proof.Machine

/-! ### The item of a number -/

section
variable {s : State} {no : ItemNo}

theorem findItem_absent (absent : ∀ i ∈ s.iq.items, i.no ≠ no) : s.findItem no = none :=
  List.find?_eq_none.mpr fun i mem => by simpa using absent i mem

/-- The first item of a number is the one found. -/
theorem findItem_first {before after : List Item} {i : Item} (queue : s.iq.items = before ++ i :: after) (here : i.no = no)
    (others : ∀ j ∈ before, j.no ≠ no) : s.findItem no = some i := by
  have skipped : ∀ j ∈ before, ¬ (j.no == no) = true := fun j mem => by simpa using others j mem
  unfold State.findItem
  rw [queue, List.find?_append, List.find?_eq_none.mpr skipped, List.find?_cons_of_pos (by simpa using here)]
  rfl

theorem modItem_eq (f : Item → Item) (s : State) : s.modItem no f =
    s.withIq { s.iq with items := s.iq.items.map fun i => if i.no = no then f i else i } := by
  simp only [State.modItem, beq_iff_eq]

end

/-! ### ITEM_TAG and ITEM_VERDICT (R47, R53) -/

theorem itemNo_ofNat (no : ItemNo) (p : List Byte) : BitVec.ofNat 16 (num2 (be2 no.toNat ++ p) 0) = no := by
  rw [num2_be2 _ no.isLt, BitVec.ofNat_toNat, BitVec.setWidth_eq]

theorem num2_itemNo {no : ItemNo} (h : no ≠ 0#16) (p : List Byte) : (num2 (be2 no.toNat ++ p) 0 != 0) = true := by
  rw [num2_be2 _ no.isLt, bne_iff_ne]
  exact fun zero => h (BitVec.eq_of_toNat_eq zero)

theorem run_itemTag (no : ItemNo) (tag : BitVec 32) (s : State) : Cmd.itemTag.run (be2 no.toNat ++ be4 tag.toNat) s =
    match s.findItem no with
    | none => (s, .no .noItem)
    | some i => (s.modItem no fun j => { j with tag := some tag },
        { reply := { Reply.plain .ok 0 [] with replaced := i.tag.isSome }, role := .plain }) := by
  have tagged : num4 (be2 no.toNat ++ be4 tag.toNat) 2 = tag.toNat := num4_be4 _ tag.isLt
  show runItemTag _ s = _
  unfold runItemTag
  dsimp only
  rw [itemNo_ofNat, tagged, BitVec.ofNat_toNat, BitVec.setWidth_eq] <;> rfl

theorem Verdict.ofCode_code {v : Verdict} (h : v ≠ .none) : Verdict.ofCode v.code = some v := by
  cases v
  · exact absurd rfl h
  · rfl
  · rfl

theorem Verdict.code_lt (v : Verdict) : v.code < 256 := by cases v <;> decide

theorem run_itemVerdict (no : ItemNo) {v : Verdict} (given : v ≠ .none) (s : State) :
    Cmd.itemVerdict.run (be2 no.toNat ++ be1 v.code) s = match s.findItem no with
    | none => (s, .no .noItem)
    | some i =>
      if i.closed then (s, .plain .late 0 (verdictContent i.verdict i.source))
      else (s.modItem no fun j => { j with verdict := v, source := .host },
        { reply := { Reply.plain .ok 0 (verdictContent v .host) with replaced := i.source == .host }, role := .plain }) := by
  have verdict : byteAt (be2 no.toNat ++ be1 v.code) 2 = v.code := byteAt_only v.code_lt
  show runItemVerdict _ s = _
  unfold runItemVerdict
  dsimp only
  rw [itemNo_ofNat, verdict, Verdict.ofCode_code given] <;> rfl

/-- Settles O48. -/
theorem tagAndVerdictActOnOneItem : Obligations.TagAndVerdictActOnOneItem := by
  intro s seq no some running ready reply absent first changed
  have find : ∀ {i : Item}, first i → s.findItem no = Option.some i := fun ⟨before, after, queue, here, others⟩ =>
    findItem_first queue here others
  have change : ∀ f : Item → Item, s.modItem no f = changed f := fun f => modItem_eq f s
  refine ⟨fun tag fresh => ?_, fun v given fresh => ?_⟩
  · intro p
    have fields : firstBad (Cmd.itemTag.ranges p) = none := by
      simp only [p, Cmd.ranges, tagRanges, num2_itemNo some]
      rfl
    have answers : ∀ {t : State} {a : Answer}, Cmd.itemTag.run p s = (t, a) →
        exec (.itemTag seq p) s = .next (respond ⟨seq, 0x28#8, p⟩ a t) :=
      fun run => exec_answers .itemTag rfl ready fresh rfl running fields run
    refine ⟨fun none => answers ?_, fun i here => answers ?_⟩
    · rw [run_itemTag, findItem_absent none]
      rfl
    · rw [run_itemTag, find here, ← change]
      rfl
  · intro p
    have verdict : byteAt p 2 = v.code := byteAt_only v.code_lt
    have fields : firstBad (Cmd.itemVerdict.ranges p) = none := by
      simp only [Cmd.ranges, verdictRanges, verdict, Verdict.ofCode_code given]
      simp only [p, num2_itemNo some]
      rfl
    have answers : ∀ {t : State} {a : Answer}, Cmd.itemVerdict.run p s = (t, a) →
        exec (.itemVerdict seq p) s = .next (respond ⟨seq, 0x29#8, p⟩ a t) :=
      fun run => exec_answers .itemVerdict rfl ready fresh rfl running fields run
    refine ⟨fun none => answers ?_, fun i here closed => answers ?_, fun i here isOpen => answers ?_⟩
    · rw [run_itemVerdict no given, findItem_absent none]
      rfl
    · rw [run_itemVerdict no given, find here]
      exact if_pos closed
    · rw [run_itemVerdict no given, find here, ← change]
      exact if_neg (by simp [isOpen])

/-! ### The switch to an ARMED bank (R113) -/

theorem Bank.displace_eq : Bank.displace = fun k => { k with state := if k.count = 0 then .idle else .draining } := by
  funext k
  simp [Bank.displace]

theorem switchBanks_none {s : State} (h : s.armedBank = none) : switchBanks s = s := by
  unfold switchBanks
  rw [h]

theorem switchBanks_some {s : State} {b : Fin 2} (h : s.armedBank = some b) : switchBanks s =
    ((s.modBank (otherBank b) Bank.displace).modBank b (Bank.activate .switch s.iq.next)).offerBank .switch b s.iq.next := by
  unfold switchBanks
  rw [h]

theorem switchBanks_bank {s : State} {b : Fin 2} (h : s.armedBank = some b) (c : Fin 2) : (switchBanks s).bank c =
    if c = b then (s.bank b).activate .switch s.iq.next else (s.bank c).displace := by
  rw [switchBanks_some h]
  rcases eq_or_other b c with rfl | rfl
  · simp [State.offerBank, otherBank_ne]
  · simp [State.offerBank, otherBank_ne, Ne.symm (otherBank_ne b)]

theorem displace_not_active (k : Bank) : k.displace.state ≠ .active := by
  unfold Bank.displace
  dsimp only
  split <;> decide

/-- The ACTIVE bank is told by which banks are ACTIVE. -/
theorem activeBank_congr {s t : State} (h : (t.bank 0).state = .active ↔ (s.bank 0).state = .active) :
    t.activeBank = s.activeBank := by
  unfold State.activeBank
  simp only [beq_iff_eq, h]

theorem activeBank_switched {s : State} {b : Fin 2} (h : s.armedBank = some b) : (switchBanks s).activeBank = b := by
  have first : ((switchBanks s).bank 0).state = .active ↔ b = 0 := by
    rw [switchBanks_bank h]
    by_cases same : 0 = b
    · simp [same, Bank.activate]
    · simp [same, displace_not_active, Ne.symm same]
  unfold State.activeBank
  simp only [beq_iff_eq, first]
  fin_cases b <;> rfl

theorem switchBanks_lei (s : State) : (switchBanks s).lei = s.lei := by
  unfold switchBanks
  split
  · rfl
  · simp [State.offerBank, State.modBank]

/-! ### Creations (R42) -/

theorem joinQueue_bank (i : Item) (s : State) (b : Fin 2) :
    ((joinQueue i s).bank b).state = (s.bank b).state ∧ ((joinQueue i s).bank b).activation = (s.bank b).activation := by
  unfold joinQueue bankJoined
  rw [State.modBank_bank]
  split
  · rename_i same
    subst same
    exact ⟨rfl, rfl⟩
  · exact ⟨rfl, rfl⟩

/-- A creation in RUN leaves run control and the line alone, takes the next number, and switches to an ARMED bank. -/
theorem makeItem_leaves {s : State} (origin : Origin) (mark : Pos) (mode : s.run.mode = .run)
    (room : s.iq.items.length < Config.itemCapacity) :
    let t := makeItem origin mark s
    t.run = s.run ∧ t.lei = s.lei ∧ t.mkd = s.mkd ∧ t.fixed = s.fixed ∧ t.iq.next = nextItemNo s.iq.next ∧
      t.activeBank = (switchBanks s).activeBank ∧
      ∀ b, (t.bank b).activation = ((switchBanks s).bank b).activation := by
  intro t
  have acts : Acts .tracking s t := makeItem_acts (by decide) origin mark s mode room
  have run : t.run = s.run := acts.run_eq (by decide) (by rw [mode]; decide)
  have lei : t.lei = s.lei := by
    obtain ⟨same, reach, timer, -⟩ := acts.lei
    have kept := reach.resolve_right (by rw [run, mode]; decide)
    have kept' := timer.resolve_right fun both => by cases both.1
    rw [same, kept, kept']
  have joined : Acts .settling (joinQueue ((switchBanks s).newItem origin mark) (switchBanks s)) t :=
    makeItem_settling origin mark s
  obtain ⟨next, banks⟩ := joined.settling (by
    show (switchBanks s).run.mode ≠ .stopping
    rw [switchBanks_run, mode]
    decide)
  refine ⟨run, lei, acts.mkd (by rw [mode]; decide), acts.fixed, ?_, ?_, fun b => ?_⟩
  · rw [next, ← switchBanks_iq s]
    rfl
  · refine activeBank_congr ((banks 0).2.trans ?_)
    rw [(joinQueue_bank _ _ 0).1]
  · rw [(banks b).1, (joinQueue_bank _ _ b).2]

theorem createItem_full {origin : Origin} {mark : Pos} {s : State} (full : 48 ≤ s.iq.items.length) :
    createItem origin mark s = (s.offer (.qfull origin mark s.lei.reach s.headNo), 0#16) := if_pos full

theorem createItem_room {origin : Origin} {mark : Pos} {s : State} (room : s.iq.items.length < 48) :
    createItem origin mark s = (makeItem origin mark s, s.iq.next) := if_neg (Nat.not_le.mpr room)

theorem newItem_entries (s : State) (origin : Origin) (mark : Pos) :
    (∀ n : Fin 16, (s.newItem origin mark).stations[n] =
      if (s.station s.activeBank n).cfg.enabled = true then .pending else .notUsed) ∧
    ∀ w : Fin 4, (s.newItem origin mark).windows[w] =
      if (s.window s.activeBank w).cfg.enabled = true then .pending else .notUsed :=
  ⟨fun n => mapV_getElem_fin _ _ n, fun w => mapV_getElem_fin _ _ w⟩

/-- The state in which a new item has joined the queue and a verdict already due has closed (R42, R45). -/
def closedJoin (i : Item) (u : State) : State :=
  if atOrBeyond u.lei.reach (i.mark + BitVec.ofNat 32 ((joinQueue i u).bank i.bank).closeDistance) = true then
    closeVerdict i (joinQueue i u) else joinQueue i u

theorem closedJoin_acts (i : Item) (u : State) : Acts .settling (joinQueue i u) (closedJoin i u) := by
  unfold closedJoin
  split
  · exact closeVerdict_acts _ _
  · exact .refl _

/-- A creation, after the switch to an ARMED bank (R42). -/
theorem makeItem_eq (origin : Origin) (mark : Pos) (s : State) :
    let i := (switchBanks s).newItem origin mark
    makeItem origin mark s = (arrange s.sched.uptake allTakers).foldl (fun u t => takeUp i.bank i.no t u)
      (settleItem i.no (closedJoin i (switchBanks s))) := by
  intro i
  have joined : (if (joinQueue i (switchBanks s)).closeDue i = true then closeVerdict i (joinQueue i (switchBanks s))
      else joinQueue i (switchBanks s)) = closedJoin i (switchBanks s) := rfl
  have acts : Acts .settling (joinQueue i (switchBanks s)) (settleItem i.no (closedJoin i (switchBanks s))) :=
    (closedJoin_acts i _).trans (settleItem_acts _ _)
  have sched : (settleItem i.no (closedJoin i (switchBanks s))).sched = s.sched := by
    have first : (settleItem i.no (closedJoin i (switchBanks s))).fixed.sched =
        (joinQueue i (switchBanks s)).fixed.sched := by rw [acts.fixed]
    have second : (switchBanks s).fixed.sched = s.fixed.sched := by rw [switchBanks_fixed]
    exact first.trans second
  unfold makeItem
  dsimp only
  rw [joined, sched]

/-! ### The uptake of an item (R64, R92) -/

section
variable {b : Fin 2} {no : ItemNo} {s : State}

theorem takeUp_absent (absent : s.findItem no = none) (t : Taker) : takeUp b no t s = s := by
  unfold takeUp
  rw [absent]

theorem takeUp_station {i : Item} (found : s.findItem no = some i) (n : Fin 16) : takeUp b no (.station n) s =
    if (s.station b n).run.cursor = none ∧ i.stations[n] = .pending then
      stationLoop b n (s.iq.items.length + 1) (s.modStationRun b n fun r => { r with cursor := some no })
    else s := by
  unfold takeUp
  rw [found]
  simp only [Bool.and_eq_true, Option.isNone_iff_eq_none, beq_iff_eq]
  rfl

theorem takeUp_window {i : Item} (found : s.findItem no = some i) (w : Fin 4) : takeUp b no (.window w) s =
    if (s.window b w).run.cursor = none ∧ i.windows[w] = .pending then
      windowLoop b w (s.iq.items.length + 1) (s.modWindowRun b w fun r => { r with cursor := some no })
    else s := by
  unfold takeUp
  rw [found]
  simp only [Bool.and_eq_true, Option.isNone_iff_eq_none, beq_iff_eq]
  rfl

/-- Nothing takes up an item that has no entry PENDING. -/
theorem takeUp_unused {i : Item} (found : s.findItem no = some i) (stations : ∀ n : Fin 16, i.stations[n] ≠ .pending)
    (windows : ∀ w : Fin 4, i.windows[w] ≠ .pending) (t : Taker) : takeUp b no t s = s := by
  cases t with
  | station n => rw [takeUp_station found, if_neg fun both => stations n both.2]
  | window w => rw [takeUp_window found, if_neg fun both => windows w both.2]

end

/-! ### ITEM_INJECT (R55) -/

theorem run_inject_on {s : State} (on : s.mkd.state ≠ .off) : runItemInject s = (s, .no .detectorOn) := if_neg on

theorem run_inject_full {s : State} (off : s.mkd.state = .off) (full : 48 ≤ s.iq.items.length) : runItemInject s =
    (s.offer (.qfull .injected s.lei.reach s.lei.reach s.headNo),
      .plain .queueFull 0 (be2 0 ++ be4 s.lei.reach.toNat ++ [0xFF#8])) := by
  unfold runItemInject
  rw [if_pos off]
  dsimp only
  rw [createItem_full full]
  rfl

theorem run_inject_room {s : State} (off : s.mkd.state = .off) (room : s.iq.items.length < 48) (named : s.iq.next ≠ 0#16) :
    runItemInject s = (makeItem .injected s.lei.reach s,
      .plain .ok 0 (be2 s.iq.next.toNat ++ be4 s.lei.reach.toNat ++
        be1 (makeItem .injected s.lei.reach s).activeBank.val)) := by
  unfold runItemInject
  rw [if_pos off]
  dsimp only
  rw [createItem_room room]
  exact if_neg named

theorem Item.decidedTest_open {i : Item} (h : i.closed = false) : i.decidedTest = i := by
  unfold Item.decidedTest Item.settled
  rw [h]
  rfl

theorem retireHeads_tracking {s : State} {i : Item} {rest : List Item} (queue : s.iq.items = i :: rest)
    (tracking : i.state = .tracking) : retireHeads s = s := by
  unfold retireHeads
  rw [queue]
  unfold retireLoop
  exact if_neg (by rw [tracking]; decide)

/-- A distance ahead is not reached (R5). -/
theorem not_atOrBeyond_ahead (p : Pos) {d : Nat} (positive : 1 ≤ d) (small : d < 2 ^ 24) :
    atOrBeyond p (p + BitVec.ofNat 32 d) = false := by
  unfold atOrBeyond
  rw [decide_eq_false_iff_not]
  rw [sub_add_cancel_left, BitVec.toNat_neg, BitVec.toNat_ofNat]
  omega

/-- An item that no station and no window takes up joins the queue, and that is all (R42). -/
theorem makeItem_unused {origin : Origin} {s : State} (empty : s.iq.items = []) (unarmed : s.armedBank = none)
    (positive : 1 ≤ (s.bank s.activeBank).closeDistance) (small : (s.bank s.activeBank).closeDistance < 2 ^ 24)
    (stations : ∀ n, (s.station s.activeBank n).cfg.enabled = false)
    (windows : ∀ w, (s.window s.activeBank w).cfg.enabled = false) :
    makeItem origin s.lei.reach s = joinQueue (s.newItem origin s.lei.reach) s := by
  obtain ⟨i, isNew⟩ : ∃ i, i = s.newItem origin s.lei.reach := ⟨_, rfl⟩
  obtain ⟨stationEntries, windowEntries⟩ := newItem_entries s origin s.lei.reach
  rw [← isNew] at stationEntries windowEntries
  have queue : (joinQueue i s).iq.items = [i] := by
    show s.iq.items ++ [i] = [i]
    rw [empty]
    rfl
  have found : (joinQueue i s).findItem i.no = some i := findItem_first (before := []) queue rfl (by simp)
  have close : ((joinQueue i s).bank i.bank).closeDistance = (s.bank s.activeBank).closeDistance := by
    have carried : i.bank = s.activeBank := by rw [isNew]; rfl
    unfold joinQueue bankJoined
    rw [State.modBank_bank, if_pos rfl, carried]
    rfl
  have notDue : closedJoin i s = joinQueue i s := by
    unfold closedJoin
    rw [close, show i.mark = s.lei.reach by rw [isNew]; rfl, not_atOrBeyond_ahead _ positive small]
    exact if_neg Bool.false_ne_true
  have undecided : settleItem i.no (joinQueue i s) = joinQueue i s := by
    have same : (joinQueue i s).modItem i.no Item.decidedTest = joinQueue i s := by
      rw [modItem_eq, queue]
      simp only [List.map_cons, List.map_nil, if_true]
      rw [Item.decidedTest_open (by rw [isNew]; rfl), ← queue]
      rfl
    unfold settleItem
    rw [same]
    exact retireHeads_tracking queue (by rw [isNew]; rfl)
  have notTaken : ∀ t, takeUp i.bank i.no t (joinQueue i s) = joinQueue i s :=
    takeUp_unused found (fun n => by rw [stationEntries, stations]; decide) fun w => by rw [windowEntries, windows]; decide
  have made := makeItem_eq origin s.lei.reach s
  rw [switchBanks_none unarmed, ← isNew] at made
  dsimp only at made
  rw [made, notDue, undecided, ← isNew]
  exact List.foldl_fixed' notTaken _

theorem newItem_unused {origin : Origin} {s : State} (mark : Pos)
    (stations : ∀ n, (s.station s.activeBank n).cfg.enabled = false)
    (windows : ∀ w, (s.window s.activeBank w).cfg.enabled = false) : s.newItem origin mark =
      { no := s.iq.next, origin := origin, bank := s.activeBank, mark := mark, created := s.partTime, tag := none
        verdict := .none, source := .none, closed := false, stations := Vector.replicate 16 .notUsed
        windows := Vector.replicate 4 .notUsed, state := .tracking } := by
  obtain ⟨stationEntries, windowEntries⟩ := newItem_entries s origin mark
  have none : (s.newItem origin mark).stations = Vector.replicate 16 .notUsed := Vector.ext fun n h => by
    have := stationEntries ⟨n, h⟩
    rw [stations] at this
    simpa using this
  have none' : (s.newItem origin mark).windows = Vector.replicate 4 .notUsed := Vector.ext fun w h => by
    have := windowEntries ⟨w, h⟩
    rw [windows] at this
    simpa using this
  rw [← none, ← none']
  rfl

theorem allTakers_eq : allTakers = (List.finRange 16).map .station ++ (List.finRange 4).map .window := by decide

/-- Settles O49. -/
theorem itemInjectMakesAnItemAtTheReach : Obligations.ItemInjectMakesAnItemAtTheReach := by
  refine ⟨fun s seq mode ready fresh => ?_, fun origin mark s => ⟨createItem_full, fun room => ?_⟩, fun b no s =>
    ⟨fun absent => takeUp_absent (findItem_absent absent), fun before i after queue here others =>
      ⟨takeUp_station (findItem_first queue here others), takeUp_window (findItem_first queue here others)⟩⟩⟩
  · intro r next
    have answers : ∀ {t : State} {a : Answer}, runItemInject s = (t, a) →
        exec (.itemInject seq []) s = .next (respond r a t) :=
      fun run => exec_answers .itemInject rfl ready fresh rfl (beq_iff_eq.mpr mode) rfl run
    refine ⟨fun on => answers (run_inject_on on), fun off full => answers (run_inject_full off full),
      fun off room named => ?_, fun off empty named unarmed positive small stations windows => ?_⟩
    · obtain ⟨run, lei, mkd, fixed, number, active, activation⟩ := makeItem_leaves .injected s.lei.reach mode room
      refine ⟨makeItem .injected s.lei.reach s, answers (run_inject_room off room named), ?_, run, lei, mkd, fixed, number,
        fun unarmed => ?_, fun b armed => ⟨?_, ?_⟩⟩
      · rw [createItem_room room]
      · rw [active, switchBanks_none unarmed]
      · rw [active, activeBank_switched armed]
      · rw [activation, switchBanks_bank armed, if_pos rfl]
        rfl
    · have made := makeItem_unused (origin := .injected) empty unarmed positive small stations windows
      have run := run_inject_room off (by rw [empty]; decide) named
      have active : (joinQueue (s.newItem .injected s.lei.reach) s).activeBank = s.activeBank :=
        activeBank_congr (by rw [(joinQueue_bank _ _ 0).1])
      rw [made, active] at run
      refine (answers run).trans ?_
      unfold joinQueue
      rw [empty, newItem_unused s.lei.reach stations windows]
      rfl
  · intro switched a
    have same : switched = switchBanks s := by
      cases armed : s.armedBank with
      | none => simp only [switched, armed, switchBanks_none armed]
      | some b =>
        simp only [switched, armed, switchBanks_some armed]
        rw [Bank.displace_eq]
        rfl
    have queue : switched.iq = s.iq := by rw [same, switchBanks_iq]
    have line : switched.lei = s.lei := by rw [same, switchBanks_lei]
    have time : switched.partTime = s.partTime := by
      have : switched.fixed.partTime = s.fixed.partTime := by rw [same, switchBanks_fixed]
      exact this
    obtain ⟨stations, windows⟩ := newItem_entries switched origin mark
    refine ⟨switched.newItem origin mark, arrange s.sched.uptake allTakers, ?_, stations, windows,
      allTakers_eq ▸ arrange_perm _ _, ?_⟩
    · unfold State.newItem
      rw [queue, time]
    · intro joined closed
      have joins : joined = joinQueue (switched.newItem origin mark) switched := by
        unfold joinQueue bankJoined
        rw [queue]
        rfl
      have closes : closed = closedJoin (switched.newItem origin mark) switched := by
        unfold closedJoin
        rw [line, ← joins]
        rfl
      have made := makeItem_eq origin mark s
      rw [← same] at made
      rw [createItem_room room, made, closes]
      have number : (switched.newItem origin mark).no = s.iq.next := by rw [← queue]; rfl
      rw [number]
      rfl

end Sys2Proof.Machine
end

section
/-! The end of an item's business (spec/03 R45 to R52), and the notice queue (spec/08). -/

namespace Sys2Proof.Machine

/-! ### The DECIDED test (R49) -/

theorem pending_absent {α : Type} [BEq α] [LawfulBEq α] {n : Nat} (v : Vector α n) (x : α) :
    (!v.toList.contains x) = true ↔ ∀ k : Fin n, v[k] ≠ x := by
  simp only [Bool.not_eq_true', ← Bool.not_eq_true, List.contains_iff_mem, Vector.mem_toList_iff, Vector.mem_iff_getElem]
  constructor
  · exact fun none k same => none ⟨k.val, k.isLt, same⟩
  · rintro none ⟨k, h, same⟩
    exact none ⟨k, h⟩ same

theorem Item.settled_iff {i : Item} : i.settled = true ↔
    i.closed = true ∧ (∀ n : Fin 16, i.stations[n] ≠ .pending) ∧ ∀ w : Fin 4, i.windows[w] ≠ .pending := by
  unfold Item.settled
  rw [Bool.and_eq_true, Bool.and_eq_true, pending_absent, pending_absent, and_assoc]

/-! ### Retirement (R50, R105, R106, R127) -/

theorem Bank.release_eq : Bank.release = fun k =>
    { k with count := k.count - 1, state := if k.state = .draining ∧ k.count ≤ 1 then .idle else k.state } := by
  funext k
  have last : (k.count - 1 == 0) = decide (k.count ≤ 1) := by
    rw [Bool.eq_iff_iff, beq_iff_eq, decide_eq_true_eq]
    omega
  simp [Bank.release, last]

theorem retireHeads_empty {s : State} (empty : s.iq.items = []) : retireHeads s = s := by
  unfold retireHeads
  rw [empty]
  rfl

/-- A DECIDED item leaves the head, and then the head behind it is looked at, or a drain ends. -/
theorem retireHeads_decided {s : State} {i : Item} {rest : List Item} (queue : s.iq.items = i :: rest)
    (decided : i.state = .decided) :
    let t := bankRetired i.bank ((s.withIq { s.iq with items := rest }).offer (.item i s.lei.reach rest.length))
    retireHeads s = if s.run.mode = .stopping ∧ rest = [] then enterConfigure .drained .nothing t else retireHeads t := by
  intro t
  have mode : t.run.mode = s.run.mode := by simp [t, bankRetired, State.modBank]
  have items : t.iq.items = rest := by simp [t, bankRetired, State.modBank]
  have ends : (t.run.mode == .stopping && rest.isEmpty) = true ↔ s.run.mode = .stopping ∧ rest = [] := by
    rw [mode, Bool.and_eq_true, beq_iff_eq, List.isEmpty_iff]
  have retires : retireHeads s =
      retireLoop rest (if (t.run.mode == .stopping && rest.isEmpty) = true then enterConfigure .drained .nothing t else t) := by
    unfold retireHeads
    rw [queue]
    exact if_pos decided
  rw [retires]
  by_cases drained : s.run.mode = .stopping ∧ rest = []
  · rw [if_pos (ends.mpr drained), if_pos drained, drained.2]
    rfl
  · rw [if_neg (mt ends.mp drained), if_neg drained]
    unfold retireHeads
    rw [items]

/-! ### The closing of verdicts (R45, R46, R70) -/

theorem StationDef.verdictCondition_eq : StationDef.verdictCondition = fun d =>
    decide (d.condition = .accepted ∨ d.condition = .rejected) := by
  funext d
  rw [Bool.eq_iff_iff, decide_eq_true_iff, StationDef.verdictCondition_iff]

theorem closeVerdicts_eq (s : State) : closeVerdicts s = s.iq.items.foldl (fun u j =>
    if u.running = true ∧ j.closed = false ∧
      atOrBeyond u.lei.reach (j.mark + BitVec.ofNat 32 (u.bank j.bank).closeDistance) = true then closeVerdict j u else u) s := by
  have due : ∀ (u : State) (j : Item), (u.running && u.closeDue j) = true ↔ u.running = true ∧ j.closed = false ∧
      atOrBeyond u.lei.reach (j.mark + BitVec.ofNat 32 (u.bank j.bank).closeDistance) = true := fun u j => by
    simp [State.closeDue, plusLu]
  unfold closeVerdicts
  simp only [due]

/-- Settles O50. -/
theorem itemsCloseSettleAndRetireInOrder : Obligations.ItemsCloseSettleAndRetireInOrder := by
  refine ⟨fun d i => ⟨fun none => if_pos none, fun given => if_neg given⟩, fun i => ?_, fun s => ⟨retireHeads_empty,
    fun i rest queue tracking => retireHeads_tracking queue tracking, fun i rest queue decided => ?_⟩,
    fun note i s => ⟨?_, ?_⟩⟩
  · intro finished
    exact ⟨fun h => if_pos (Item.settled_iff.mpr h), fun h => if_neg (mt Item.settled_iff.mp h)⟩
  · intro t
    have next := retireHeads_decided queue decided
    unfold bankRetired at next
    rw [Bank.release_eq] at next
    refine ⟨fun goesOn => next.trans (if_neg fun both => ?_), fun stopping last => next.trans (if_pos ⟨stopping, last⟩)⟩
    rcases goesOn with mode | more
    · exact mode both.1
    · exact more both.2
  · rw [← closeVerdicts_eq]
    rfl
  · rw [← StationDef.verdictCondition_eq]
    rfl

/-! ### The notice queue (R138, R139, R142, R143) -/

theorem foldl_min_le (q : List Notice) : ∀ m : Nat, q.foldl (fun m n => min m n.cls) m ≤ m ∧
    ∀ k ∈ q, q.foldl (fun m n => min m n.cls) m ≤ k.cls := by
  induction q with
  | nil => exact fun m => ⟨le_rfl, fun k mem => absurd mem List.not_mem_nil⟩
  | cons n q ih =>
    intro m
    rw [List.foldl_cons]
    obtain ⟨first, others⟩ := ih (min m n.cls)
    refine ⟨le_trans first (Nat.min_le_left _ _), fun k mem => ?_⟩
    rcases List.mem_cons.mp mem with same | mem
    · rw [same]
      exact le_trans first (Nat.min_le_right _ _)
    · exact others k mem

/-- No notice of a queue has a lower class than the lowest. -/
theorem lowestClass_le {q : List Notice} {k : Notice} (mem : k ∈ q) : lowestClass q ≤ k.cls := by
  cases q with
  | nil => cases mem
  | cons n q =>
    obtain ⟨first, others⟩ := foldl_min_le q n.cls
    rcases List.mem_cons.mp mem with rfl | mem
    · exact first
    · exact others k mem

/-- The newest notice of a class leaves the queue. -/
theorem dropNewest_last {before after : List Notice} {m : Notice} (newest : ∀ k ∈ after, k.cls ≠ m.cls) :
    dropNewest m.cls (before ++ m :: after) = before ++ after := by
  have skipped : ∀ k ∈ after.reverse, ¬ (k.cls == m.cls) = true := fun k mem => by
    simpa using newest k (List.mem_reverse.mp mem)
  unfold dropNewest
  rw [List.reverse_append, List.reverse_cons, List.append_assoc, List.singleton_append,
    List.eraseP_append_right _ skipped, List.eraseP_cons_of_pos (by simp)]
  simp

section
variable {n : Notice} {q : List Notice}

theorem enqueueNotice_room (room : q.length < 32) : enqueueNotice n q = q ++ [n] := if_pos room

theorem enqueueNotice_shed {before after : List Notice} {m : Notice} (full : 32 ≤ q.length) (queue : q = before ++ m :: after)
    (lower : m.cls < n.cls) (lowest : ∀ k ∈ q, m.cls ≤ k.cls) (newest : ∀ k ∈ after, k.cls ≠ m.cls) :
    enqueueNotice n q = before ++ after ++ [n] := by
  have least : lowestClass q = m.cls := by
    obtain ⟨k, mem, same⟩ := lowestClass_mem (q := q) (by rw [queue]; simp)
    exact le_antisymm (lowestClass_le (by rw [queue]; simp)) (same ▸ lowest k mem)
  unfold enqueueNotice Config.noticeCapacity
  rw [if_neg (Nat.not_lt.mpr full), least, if_pos lower, queue, dropNewest_last newest]

theorem enqueueNotice_discard (full : 32 ≤ q.length) (higher : ∀ k ∈ q, n.cls ≤ k.cls) : enqueueNotice n q = q := by
  obtain ⟨k, mem, same⟩ := lowestClass_mem (q := q) (by rintro rfl; simp at full)
  have := higher k mem
  unfold enqueueNotice Config.noticeCapacity
  rw [if_neg (Nat.not_lt.mpr full), if_neg (by omega)]

end

/-- Settles O55. -/
theorem offeredNoticeIsQueuedOrShed : Obligations.OfferedNoticeIsQueuedOrShed := by
  refine ⟨fun body s => rfl, fun now body q => ?_⟩
  intro c aged n
  have offered : c ≠ 0 → q.offer now body = { q with next := q.next + 1#16, queue := enqueueNotice n aged } :=
    fun reported => if_neg (by rw [beq_iff_eq]; exact reported)
  refine ⟨fun none => if_pos (by rw [beq_iff_eq]; exact none), fun reported room => ?_,
    fun before m after reported full queue lower lowest newest => ?_, fun reported full higher => ?_⟩
  · rw [offered reported, enqueueNotice_room room]
  · rw [offered reported, enqueueNotice_shed full queue lower lowest newest]
  · rw [offered reported, enqueueNotice_discard full higher]

end Sys2Proof.Machine
end

section
/-! The check windows (spec/05). -/

namespace Sys2Proof.Machine

/-- The nearest item of a bank behind the first item of a number (R65, R92). -/
theorem nextBehind_first {items before after : List Item} {i : Item} (b : Fin 2) (queue : items = before ++ i :: after)
    (others : ∀ j ∈ before, j.no ≠ i.no) : nextBehind i.no b items = (after.find? fun j => j.bank == b).map (·.no) := by
  unfold nextBehind
  rw [queue, List.dropWhile_append_of_pos (by simpa using others), List.dropWhile_cons_of_neg (by simp)]
  rfl

/-! ### The tests of a window (R93, R94, R95) -/

section
variable {b : Fin 2} {w : Fin 4} {i : Item} {s : State}

theorem windowTest_open (opened : (s.window b w).run.opened = true) : windowTest b w i s =
    if atOrBeyond s.lei.reach (s.window b w).run.recClose = true then (s, some (s.window b w).cfg.rule.atClose)
    else (s, none) := by
  unfold windowTest
  exact if_pos opened

theorem windowTest_short (closed : (s.window b w).run.opened = false)
    (short : atOrBeyond s.lei.reach ((s.window b w).cfg.startPoint i) = false) : windowTest b w i s = (s, none) := by
  unfold windowTest
  dsimp only
  rw [closed, short]
  rfl

theorem windowTest_missed (closed : (s.window b w).run.opened = false)
    (reached : atOrBeyond s.lei.reach ((s.window b w).cfg.startPoint i) = true)
    (passed : atOrBeyond s.lei.reach ((s.window b w).cfg.closePoint i) = true) : windowTest b w i s =
      (s.modWindowRun b w (WindowRun.note (s.window b w).cfg i false false false), some .missed) := by
  unfold windowTest
  dsimp only
  rw [closed, reached, passed]
  rfl

theorem windowTest_opens (closed : (s.window b w).run.opened = false)
    (reached : atOrBeyond s.lei.reach ((s.window b w).cfg.startPoint i) = true)
    (inside : atOrBeyond s.lei.reach ((s.window b w).cfg.closePoint i) = false) : windowTest b w i s =
      (openWindow b w i s, (s.window b w).cfg.early (s.senseActive (s.window b w).cfg.input)
        (!s.senseActive (s.window b w).cfg.input)) := by
  unfold windowTest
  dsimp only
  rw [closed, reached, inside]
  rfl

end

/-- The outcome that the rule gives at once from what an open window has seen (R94). -/
theorem WindowDef.early_eq (d : WindowDef) (active inactive : Bool) : d.early active inactive = match d.rule, d.expected with
    | .any, .active => if active = true then some .pass else none
    | .any, .inactive => if inactive = true then some .pass else none
    | .all, .active => if inactive = true then some .fail else none
    | .all, .inactive => if active = true then some .fail else none := by
  unfold WindowDef.early
  cases d.rule <;> cases d.expected <;> rfl

/-- The outcome at the opening, by the input's present state (R93, R94). -/
theorem WindowDef.early_sampled (d : WindowDef) (seen : Bool) : d.early seen (!seen) = match d.rule with
    | .any => if (match d.expected with
        | .active => seen
        | .inactive => !seen) then some .pass else none
    | .all => if (match d.expected with
        | .active => seen
        | .inactive => !seen) then none else some .fail := by
  unfold WindowDef.early
  cases d.rule <;> cases d.expected <;> cases seen <;> rfl

/-! ### Resolution (R97) -/

theorem StationDef.windowCondition_on (w : Fin 4) : (fun d : StationDef => d.windowCondition && d.window == w) = fun d =>
    decide ((d.condition = .windowPass ∨ d.condition = .windowFail) ∧ d.window = w) := by
  funext d
  rw [Bool.eq_iff_iff, Bool.and_eq_true, decide_eq_true_iff, StationDef.windowCondition_iff, beq_iff_eq]

/-! ### Item after item (R95) -/

section
variable {b : Fin 2} {w : Fin 4} {k : Nat} {s : State}

theorem windowLoop_stopped (stopped : s.running = false) : windowLoop b w k s = s := by
  cases k with
  | zero => rfl
  | succ k => exact if_neg (by rw [stopped]; exact Bool.false_ne_true)

theorem windowLoop_noCursor (none : (s.window b w).run.cursor.bind s.findItem = none) : windowLoop b w k s = s := by
  cases k with
  | zero => rfl
  | succ k =>
    unfold windowLoop
    rw [none]
    split <;> rfl

theorem windowLoop_waits {i : Item} (running : s.running = true) (cursor : (s.window b w).run.cursor.bind s.findItem = some i)
    (waits : (windowTest b w i s).2 = none) : windowLoop b w (k + 1) s = (windowTest b w i s).1 := by
  have test : windowTest b w i s = ((windowTest b w i s).1, none) := by rw [← waits]
  conv_lhs => unfold windowLoop
  rw [if_pos running, cursor]
  dsimp only
  rw [test]

theorem windowLoop_resolves {i : Item} {o : WindowOutcome} (running : s.running = true)
    (cursor : (s.window b w).run.cursor.bind s.findItem = some i) (resolves : (windowTest b w i s).2 = some o) :
    windowLoop b w (k + 1) s = windowLoop b w k (resolveWindow b w i o (windowTest b w i s).1) := by
  have test : windowTest b w i s = ((windowTest b w i s).1, some o) := by rw [← resolves]
  conv_lhs => unfold windowLoop
  rw [if_pos running, cursor]
  dsimp only
  rw [test]

end

/-! ### An edge at an open window (R94) -/

/-- What an open window has seen after an edge of its input. -/
def WindowRun.see (active : Bool) (r : WindowRun) : WindowRun :=
  { r with seenActive := r.seenActive || active, seenInactive := r.seenInactive || !active }

section
variable {b : Fin 2} {w : Fin 4} {input : Fin 4} {active : Bool} {s : State}

theorem windowEdge_ignores (h : s.running = false ∨ (s.window b w).run.opened = false ∨ (s.window b w).cfg.input ≠ input) :
    windowEdge b w input active s = s := by
  refine if_neg fun taken => ?_
  simp only [Bool.and_eq_true, beq_iff_eq] at taken
  obtain ⟨⟨running, opened⟩, here⟩ := taken
  rcases h with stopped | closed | other
  · rw [running] at stopped; cases stopped
  · rw [opened] at closed; cases closed
  · exact other here

theorem windowEdge_sees (running : s.running = true) (opened : (s.window b w).run.opened = true)
    (here : (s.window b w).cfg.input = input) : windowEdge b w input active s =
      match (s.window b w).cfg.early ((s.window b w).run.seenActive || active) ((s.window b w).run.seenInactive || !active),
          (s.window b w).run.cursor.bind s.findItem with
      | some o, some i => windowAdvance b w (resolveWindow b w i o (s.modWindowRun b w (WindowRun.see active)))
      | _, _ => s.modWindowRun b w (WindowRun.see active) := by
  have taken : (s.running && (s.window b w).run.opened && (s.window b w).cfg.input == input) = true := by
    simp [running, opened, here]
  have seen : (s.modWindowRun b w (WindowRun.see active)).window b w =
      { s.window b w with run := (s.window b w).run.see active } := by simp
  have find : (s.modWindowRun b w (WindowRun.see active)).findItem = s.findItem := rfl
  unfold windowEdge
  rw [if_pos taken]
  change (match ((s.modWindowRun b w (WindowRun.see active)).window b w).cfg.early
      ((s.modWindowRun b w (WindowRun.see active)).window b w).run.seenActive
      ((s.modWindowRun b w (WindowRun.see active)).window b w).run.seenInactive,
    ((s.modWindowRun b w (WindowRun.see active)).window b w).run.cursor.bind
      (s.modWindowRun b w (WindowRun.see active)).findItem with
    | some o, some i => windowAdvance b w (resolveWindow b w i o (s.modWindowRun b w (WindowRun.see active)))
    | _, _ => s.modWindowRun b w (WindowRun.see active)) = _
  rw [seen, find] <;> rfl

theorem windowEdge_notes (running : s.running = true) (opened : (s.window b w).run.opened = true)
    (here : (s.window b w).cfg.input = input)
    (h : (s.window b w).cfg.early ((s.window b w).run.seenActive || active) ((s.window b w).run.seenInactive || !active) =
      none ∨ (s.window b w).run.cursor.bind s.findItem = none) :
    windowEdge b w input active s = s.modWindowRun b w (WindowRun.see active) := by
  rw [windowEdge_sees running opened here]
  rcases h with none | none
  · rw [none]
  · rw [none]
    split
    · contradiction
    · rfl

theorem windowEdge_resolves {o : WindowOutcome} {i : Item} (running : s.running = true)
    (opened : (s.window b w).run.opened = true) (here : (s.window b w).cfg.input = input)
    (resolves : (s.window b w).cfg.early ((s.window b w).run.seenActive || active)
      ((s.window b w).run.seenInactive || !active) = some o)
    (cursor : (s.window b w).run.cursor.bind s.findItem = some i) : windowEdge b w input active s =
      windowAdvance b w (resolveWindow b w i o (s.modWindowRun b w (WindowRun.see active))) := by
  rw [windowEdge_sees running opened here, resolves, cursor]

end

/-- Settles O53. -/
theorem windowOpensAndResolves : Obligations.WindowOpensAndResolves := by
  refine ⟨fun b w i s => ?_, fun b w o s before i after queue others => ?_, fun b w k note input active s => ?_⟩
  · intro d r start close seen expected
    refine ⟨windowTest_short, windowTest_missed, fun closed reached inside => (windowTest_opens closed reached inside).trans ?_,
      fun opened short => (windowTest_open opened).trans (if_neg (by rw [short]; exact Bool.false_ne_true)),
      fun opened passed => (windowTest_open opened).trans ((if_pos passed).trans ?_)⟩
    · exact congrArg (fun o => (openWindow b w i s, o)) (d.early_sampled seen)
    · show (s, some d.rule.atClose) = _
      cases d.rule <;> rfl
  · intro written
    unfold resolveWindow
    rw [nextBehind_first b queue others, StationDef.windowCondition_on]
    rfl
  · intro d r cursor
    refine ⟨rfl, rfl, fun h => h.elim windowLoop_stopped windowLoop_noCursor, fun i running here =>
      ⟨windowLoop_waits running here, fun o => windowLoop_resolves running here⟩, windowEdge_ignores,
      fun running opened here => ?_⟩
    intro u outcome
    have early : outcome = d.early (r.seenActive || active) (r.seenInactive || !active) := by
      rw [WindowDef.early_eq]
      simp only [outcome, Bool.or_eq_true, Bool.not_eq_true'] <;> rfl
    exact ⟨fun h => windowEdge_notes running opened here (h.imp_left early.symm.trans),
      fun o i resolves found => windowEdge_resolves running opened here (early.symm.trans resolves) found⟩

end Sys2Proof.Machine
end

section
/-! The stations (spec/04). -/

namespace Sys2Proof.Machine

/-! ### Pulses (R73, R74, R75) -/

theorem maxOnDeadline_eq (now : Time) (maxOn : Nat) :
    maxOnDeadline now maxOn = if maxOn = 0 then none else some (now + BitVec.ofNat 32 maxOn) := by
  simp [maxOnDeadline]

theorem maxOnDeadline_merged (now : Time) (maxOn : Nat) (armed : Option Time) :
    (if (maxOnDeadline now maxOn).isSome = true then maxOnDeadline now maxOn else armed) =
      if maxOn = 0 then armed else maxOnDeadline now maxOn := by
  rw [maxOnDeadline_eq]
  by_cases none : maxOn = 0 <;> simp [none]

section
variable {r : StationRun} (line : Fin 16) (kind : LengthKind) (target : BitVec 32) (item : ItemNo) (deadline : Option Time)

theorem StationRun.pulse_starts (off : r.on = false) :
    r.pulse line kind target item deadline = (r.startPulse line kind target item deadline, .fired) :=
  if_neg (by rw [off]; exact Bool.false_ne_true)

theorem StationRun.pulse_merges (on : r.on = true) (same : r.pulseLine = line) (sameKind : r.endKind = kind) :
    r.pulse line kind target item deadline = (r.mergePulse target deadline, .merged) :=
  (if_pos on).trans (if_pos ⟨same, sameKind⟩)

theorem StationRun.pulse_supersedes (on : r.on = true) (other : r.pulseLine ≠ line ∨ r.endKind ≠ kind) :
    r.pulse line kind target item deadline =
      ({ r with on := true, pulseLine := line, endKind := kind, endTarget := target, opening := item, maxOn := deadline
                lastEnd := .superseded }, .fired) := by
  have ended : (r.endPulse .superseded).startPulse line kind target item deadline =
      { r with on := true, pulseLine := line, endKind := kind, endTarget := target, opening := item, maxOn := deadline
               lastEnd := .superseded } := by
    simp [StationRun.endPulse, StationRun.startPulse, on]
  unfold StationRun.pulse
  rw [if_pos on, if_neg fun both => other.elim (fun l => l both.1) fun k => k both.2, ended]

end

/-! ### The action of a station (R71, R72) -/

section
variable {b : Fin 2} {n : Fin 16} {i : Item} {s : State}

theorem stationAct_distance (action : (s.station b n).cfg.action = .pulse)
    (kind : (s.station b n).cfg.lengthKind = .distance)
    (ahead : atOrBeyond s.lei.reach ((s.station b n).cfg.endTarget (s.lead b n) i) = false) : stationAct b n i true s =
      pulseStation b n .distance ((s.station b n).cfg.endTarget (s.lead b n) i) i.no
        (maxOnDeadline s.partTime (s.station b n).cfg.maxOn) s := by
  unfold stationAct stationAction
  dsimp only
  rw [action, kind]
  dsimp only
  rw [ahead]
  rfl

theorem stationAct_late (action : (s.station b n).cfg.action = .pulse) (kind : (s.station b n).cfg.lengthKind = .distance)
    (passed : atOrBeyond s.lei.reach ((s.station b n).cfg.endTarget (s.lead b n) i) = true) :
    stationAct b n i true s = (s, .late) := by
  unfold stationAct stationAction
  dsimp only
  rw [action, kind]
  dsimp only
  rw [passed]
  rfl

theorem stationAct_time (action : (s.station b n).cfg.action = .pulse) (kind : (s.station b n).cfg.lengthKind = .time) :
    stationAct b n i true s =
      pulseStation b n .time (s.partTime + BitVec.ofNat 32 (s.station b n).cfg.length) i.no none s := by
  unfold stationAct stationAction
  dsimp only
  rw [action, kind]
  rfl

/-- The three latch actions. -/
theorem stationAct_latch {f : Line → Line} (h : (s.station b n).cfg.action = .set ∧ f = (fun l => { l with latch := true }) ∨
    (s.station b n).cfg.action = .clear ∧ f = (fun l => { l with latch := false }) ∨
    (s.station b n).cfg.action = .invert ∧ f = fun l => { l with latch := !l.latch }) :
    stationAct b n i true s = (s.modLine (s.station b n).cfg.line f, .fired) := by
  unfold stationAct stationAction
  dsimp only
  rcases h with ⟨action, rfl⟩ | ⟨action, rfl⟩ | ⟨action, rfl⟩ <;> rw [action] <;> rfl

end

/-! ### Conditions and the lead distance (R67, R69) -/

theorem StationDef.evaluate_eq (d : StationDef) (i : Item) : d.evaluate i = match d.condition with
    | .always => some true
    | .accepted => if i.closed = true then some (decide (i.verdict = .accept)) else none
    | .rejected => if i.closed = true then some (decide (i.verdict = .reject)) else none
    | .windowPass => if i.windows[d.window] = .pending then none else some (decide (i.windows[d.window] = .pass))
    | .windowFail => if i.windows[d.window] = .pending then none
      else some (decide (i.windows[d.window] = .fail ∨ i.windows[d.window] = .missed)) := by
  unfold StationDef.evaluate
  cases d.condition with
  | always => rfl
  | accepted => rfl
  | rejected => rfl
  | windowPass =>
    dsimp only
    generalize i.windows[d.window] = o
    cases o <;> rfl
  | windowFail =>
    dsimp only
    generalize i.windows[d.window] = o
    cases o <;> rfl

theorem leadDistance_none {valid : Bool} {d : StationDef} (h : valid = false ∨ d.leadTime = 0) (interval k : Nat) :
    leadDistance valid interval k d = 0 := by
  unfold leadDistance
  rcases h with h | h <;> simp [h]

theorem leadDistance_measured {d : StationDef} {interval : Nat} (timed : d.leadTime ≠ 0) (positive : interval ≠ 0) (k : Nat) :
    leadDistance true interval k d = min (d.leadTime * 32 * 2 ^ k / interval) d.leadLimit := by
  simp [leadDistance, timed, positive]

theorem leadDistance_le (valid : Bool) (interval k : Nat) (d : StationDef) : leadDistance valid interval k d ≤ d.leadLimit := by
  unfold leadDistance
  split
  · exact Nat.zero_le _
  · exact Nat.min_le_right _ _

/-! ### The due test, item after item (R68, R70) -/

section
variable {b : Fin 2} {n : Fin 16} {k : Nat} {s : State}

theorem stationLoop_idle (h : s.running = false ∨ (s.station b n).run.cursor.bind s.findItem = none) :
    stationLoop b n k s = s := by
  cases k with
  | zero => rfl
  | succ k =>
    unfold stationLoop
    rcases h with stopped | none
    · rw [stopped]
      rfl
    · rw [none]
      split <;> rfl

theorem releaseStation_idle (h : s.running = false ∨ (s.station b n).run.cursor.bind s.findItem = none) :
    releaseStation b n s = s := by
  unfold releaseStation
  rcases h with stopped | none
  · rw [stopped]
    rfl
  · rw [none]
    split <;> rfl

variable {i : Item} (running : s.running = true) (cursor : (s.station b n).run.cursor.bind s.findItem = some i)
include running cursor

theorem stationLoop_short (short : s.due b n i = false) : stationLoop b n (k + 1) s = s := by
  unfold stationLoop
  rw [if_pos running, cursor]
  dsimp only
  rw [short]
  rfl

theorem stationLoop_holds (due : s.due b n i = true) (waits : (s.station b n).cfg.evaluate i = none) :
    stationLoop b n (k + 1) s = s.modStationRun b n fun r => { r with held := true } := by
  unfold stationLoop
  rw [if_pos running, cursor]
  dsimp only
  rw [if_pos due, waits]

theorem stationLoop_decides {c : Bool} (due : s.due b n i = true) (value : (s.station b n).cfg.evaluate i = some c) :
    stationLoop b n (k + 1) s = stationLoop b n k (decideStation b n i c s) := by
  conv_lhs => unfold stationLoop
  rw [if_pos running, cursor]
  dsimp only
  rw [if_pos due, value]

theorem releaseStation_waits (waits : (s.station b n).cfg.evaluate i = none) : releaseStation b n s = s := by
  unfold releaseStation
  rw [if_pos running, cursor]
  dsimp only
  rw [waits]

theorem releaseStation_decides {c : Bool} (value : (s.station b n).cfg.evaluate i = some c) :
    releaseStation b n s = stationTest b n (decideStation b n i c s) := by
  unfold releaseStation
  rw [if_pos running, cursor]
  dsimp only
  rw [value]

end

/-! ### The stations that one event releases (log 6) -/

theorem heldOn_eq (b : Fin 2) (no : ItemNo) (waits : StationDef → Bool) (s : State) : heldOn b no waits s =
    (List.finRange 16).filter fun n => decide ((s.station b n).run.held = true ∧
      (s.station b n).run.cursor = some no ∧ waits (s.station b n).cfg = true) := by
  have every : allStationNos = List.finRange 16 := by decide
  unfold heldOn
  rw [every]
  refine List.filter_congr fun n _ => ?_
  rw [Bool.eq_iff_iff, Bool.and_eq_true, Bool.and_eq_true, beq_iff_eq, decide_eq_true_iff, and_assoc]

/-! ### The end of a DISTANCE pulse (R77) -/

theorem pulseEnd_eq (b : Fin 2) (n : Fin 16) (s : State) : whileRunning (distanceEnd b n) s =
    if s.running = true ∧ (s.station b n).run.on = true ∧ (s.station b n).run.endKind = .distance ∧
        atOrBeyond s.lei.reach (s.station b n).run.endTarget = true then
      s.modStationRun b n fun q => { q with on := false, maxOn := none, lastEnd := .target }
    else s := by
  have due : (s.running && s.distanceEndDue b n) = true ↔ s.running = true ∧ (s.station b n).run.on = true ∧
      (s.station b n).run.endKind = .distance ∧ atOrBeyond s.lei.reach (s.station b n).run.endTarget = true := by
    simp [State.distanceEndDue, and_assoc]
  unfold whileRunning distanceEnd
  by_cases ends : (s.running && s.distanceEndDue b n) = true
  · obtain ⟨running, on, -⟩ := due.mp ends
    rw [if_pos running, if_pos ends, if_pos (due.mp ends)]
    exact endPulseOf_of_on b n .target on
  · rw [if_neg ends, if_neg (mt due.mpr ends), ite_self]

/-- Settles O52. -/
theorem stationActsByItsDefinition : Obligations.StationActsByItsDefinition := by
  refine ⟨fun b n i s => ?_, fun b n s => ?_, StationDef.evaluate_eq, fun a b => rfl, fun b n k s => ?_,
    fun b n c s before i after queue others => ?_, fun b no waits s => ?_, fun b n note s => ?_⟩
  · intro d r target started deadline
    have due : deadline = maxOnDeadline s.partTime d.maxOn := (maxOnDeadline_eq _ _).symm
    refine ⟨rfl, fun set => stationAct_latch (.inl ⟨set, rfl⟩), fun clear => stationAct_latch (.inr (.inl ⟨clear, rfl⟩)),
      fun invert => stationAct_latch (.inr (.inr ⟨invert, rfl⟩)), stationAct_late, fun pulse kind ahead => ?_,
      fun pulse kind => ?_⟩
    · rw [stationAct_distance pulse kind ahead, due]
      refine ⟨fun off => ?_, fun on line same => ?_, fun on other => ?_⟩
      · unfold pulseStation
        rw [StationRun.pulse_starts _ _ _ _ _ off]
        rfl
      · unfold pulseStation
        rw [StationRun.pulse_merges _ _ _ _ _ on line same]
        unfold StationRun.mergePulse
        rw [maxOnDeadline_merged]
        rfl
      · unfold pulseStation
        rw [StationRun.pulse_supersedes _ _ _ _ _ on other]
        rfl
    · intro e
      rw [stationAct_time pulse kind]
      refine ⟨fun off => ?_, fun on line same => ?_, fun on other => ?_⟩
      · unfold pulseStation
        rw [StationRun.pulse_starts _ _ _ _ _ off]
        rfl
      · unfold pulseStation
        rw [StationRun.pulse_merges _ _ _ _ _ on line same]
        rfl
      · unfold pulseStation
        rw [StationRun.pulse_supersedes _ _ _ _ _ on other]
  · intro d
    refine ⟨fun valid timed positive => ?_, fun h => leadDistance_none h _ _, leadDistance_le _ _ _ _⟩
    unfold State.lead
    rw [valid]
    exact leadDistance_measured timed positive _
  · intro cursor
    refine ⟨rfl, fun h => ⟨stationLoop_idle h, releaseStation_idle h⟩, fun i running here => ?_⟩
    exact ⟨stationLoop_short running here, stationLoop_holds running here, fun c => stationLoop_decides running here,
      releaseStation_waits running here, fun c => releaseStation_decides running here⟩
  · intro a written
    unfold decideStation
    rw [nextBehind_first b queue others]
    rfl
  · exact ⟨arrange s.sched.release (heldOn b no waits s), heldOn_eq b no waits s ▸ arrange_perm _ _, rfl⟩
  · exact ⟨rfl, pulseEnd_eq b n s⟩

end Sys2Proof.Machine
end

section
/-! The mark detector (spec/02 R24 to R35). -/

namespace Sys2Proof.Machine

theorem DetState.locked_iff {d : DetState} : d.locked = true ↔ d = .track ∨ d = .coast := by
  cases d <;> simp [DetState.locked]

/-! ### Requests for items (R32, R33) -/

/-- A creation in RUN leaves the detector and the reach to the request that makes it. -/
theorem createItem_leaves (origin : Origin) (mark : Pos) {s : State} (mode : s.run.mode = .run) :
    (createItem origin mark s).1.mkd = s.mkd ∧ (createItem origin mark s).1.lei.reach = s.lei.reach := by
  have acts : Acts .tracking s (createItem origin mark s).1 := createItem_acts (by decide) origin mark s mode
  have run := acts.run_eq (by decide) (by rw [mode]; decide)
  exact ⟨acts.mkd (by rw [mode]; decide), acts.reach_kept (by rw [run, mode]; decide)⟩

/-- An item with its number kept as the last created, and N_MARK. -/
def marked (origin : Origin) (mark : Pos) (m : Mkd) (deviation : Int) (notMeasured : Bool) (s : State) : State :=
  let c := createItem origin mark s
  (c.1.withMkd { m with lastCreated := c.2 }).offer
    (.mark origin c.2 mark s.lei.reach m.state m.missRun deviation notMeasured)

theorem requestItem_eq {origin : Origin} {mark : Pos} {update : Mkd → Mkd} {deviation : Int} {notMeasured : Bool} {s : State}
    (mode : s.run.mode = .run) : requestItem origin mark update deviation notMeasured s =
      marked origin mark (update s.mkd) deviation notMeasured s := by
  obtain ⟨mkd, reach⟩ := createItem_leaves origin mark mode
  unfold requestItem marked
  dsimp only
  rw [State.withMkd_lei, State.withMkd_mkd, mkd, reach]

/-! ### Judgement by the state in force (R27, R28) -/

section
variable {v : State} {lead : Pos} (mode : v.run.mode = .run)

theorem judgeSearch_blanked {last : Pos} (free : v.mkd.cfg.pitch = 0) (accepted : v.mkd.lastAccepted = some last)
    (blanked : atOrBeyond lead (last + BitVec.ofNat 32 v.mkd.cfg.blanking) = false) :
    judgeSearch lead v = v.offerStray .blanked lead last := by
  unfold judgeSearch
  rw [if_pos free, accepted]
  exact if_neg (by rw [show atOrBeyond lead (plusLu last v.mkd.cfg.blanking) = false from blanked]; exact Bool.false_ne_true)

include mode

theorem judgeSearch_free (free : v.mkd.cfg.pitch = 0)
    (clear : ∀ last, v.mkd.lastAccepted = some last → atOrBeyond lead (last + BitVec.ofNat 32 v.mkd.cfg.blanking) = true) :
    judgeSearch lead v = marked .sensed lead { v.mkd with lastAccepted := some lead } 0 true v := by
  unfold judgeSearch
  rw [if_pos free]
  cases accepted : v.mkd.lastAccepted with
  | none => exact requestItem_eq mode
  | some last => exact (if_pos (clear last accepted)).trans (requestItem_eq mode)

theorem acceptLocked_eq (deviation : Int) (notMeasured : Bool) : acceptLocked lead deviation notMeasured v =
    closeTest (marked .sensed lead { v.mkd with
      lastAccepted := some lead, expected := lead + BitVec.ofNat 32 v.mkd.cfg.pitch, missRun := 0, state := .track }
      deviation notMeasured v) := by
  unfold acceptLocked
  rw [requestItem_eq mode]
  rfl

theorem judgeSearch_pitch (pitch : v.mkd.cfg.pitch ≠ 0) : judgeSearch lead v =
    closeTest (marked .sensed lead { v.mkd with
      lastAccepted := some lead, expected := lead + BitVec.ofNat 32 v.mkd.cfg.pitch, missRun := 0, state := .track }
      0 true v) := by
  unfold judgeSearch
  rw [if_neg pitch, acceptLocked_eq mode]

end

theorem judgeState_search {v : State} {lead : Pos} (search : v.mkd.state = .search) : judgeState lead v = judgeSearch lead v := by
  unfold judgeState
  rw [search]

theorem judgeState_locked {v : State} {lead : Pos} (locked : v.mkd.state = .track ∨ v.mkd.state = .coast) :
    judgeState lead v = judgeLocked lead v := by
  unfold judgeState
  rcases locked with track | coast
  · rw [track]
  · rw [coast]

/-! ### Judgement of a candidate (R26, R27, R29) -/

/-- The state in which a candidate is judged: it has ceased to exist, and every window that it lies beyond has closed. -/
def judged (lead : Pos) (s : State) : State :=
  closeBefore lead (s.withMkd { s.mkd with candidate := none, deferred := false })

theorem judge_eq (lead : Pos) (s : State) : judge lead s = match (judged lead s).mkd.lastAccepted with
    | some last => if atOrBeyond lead last then judgeState lead (judged lead s) else (judged lead s).offerStray .early lead last
    | none => judgeState lead (judged lead s) := rfl

theorem judge_early {lead last : Pos} {s : State} (accepted : (judged lead s).mkd.lastAccepted = some last)
    (short : atOrBeyond lead last = false) : judge lead s = (judged lead s).offerStray .early lead last := by
  rw [judge_eq, accepted]
  exact if_neg (by rw [short]; exact Bool.false_ne_true)

theorem judge_state {lead : Pos} {s : State}
    (beyond : ∀ last, (judged lead s).mkd.lastAccepted = some last → atOrBeyond lead last = true) :
    judge lead s = judgeState lead (judged lead s) := by
  rw [judge_eq]
  cases accepted : (judged lead s).mkd.lastAccepted with
  | none => rfl
  | some last => exact if_pos (beyond last accepted)

theorem judged_eq (lead : Pos) (s : State) :
    let u := s.withMkd { s.mkd with candidate := none, deferred := false }
    judged lead s = if (s.mkd.state = .track ∨ s.mkd.state = .coast) ∧
      atOrBeyond (s.mkd.expected + BitVec.ofNat 32 s.mkd.cfg.tolerance) lead = false then closeTest u else u := by
  have beyond : (s.mkd.state.locked && !atOrBeyond (s.mkd.expected + BitVec.ofNat 32 s.mkd.cfg.tolerance) lead) = true ↔
      (s.mkd.state = .track ∨ s.mkd.state = .coast) ∧
        atOrBeyond (s.mkd.expected + BitVec.ofNat 32 s.mkd.cfg.tolerance) lead = false := by
    rw [Bool.and_eq_true, DetState.locked_iff, Bool.not_eq_true']
  exact ite_congr_prop beyond _ _

theorem judged_acts (lead : Pos) {s : State} (mode : s.run.mode = .run) : Acts .marks s (judged lead s) :=
  (Acts.detector s { s.mkd with candidate := none, deferred := false } (by decide) rfl (.inr mode)).trans
    (closeBefore_acts lead _ mode)

/-! ### The close test (R29, R30, R31) -/

section
variable {s : State}

theorem windowPassed_iff : s.windowPassed = true ↔ (s.mkd.state = .track ∨ s.mkd.state = .coast) ∧
    atOrBeyond s.lei.reach (s.mkd.expected + BitVec.ofNat 32 (s.mkd.cfg.tolerance + 1)) = true := by
  unfold State.windowPassed
  rw [Bool.and_eq_true, DetState.locked_iff]
  rfl

theorem inWindow_iff {m : Mkd} {lead : Pos} : m.inWindow lead = true ↔
    atOrBeyond lead (m.expected - BitVec.ofNat 32 m.cfg.tolerance) = true ∧
      atOrBeyond (m.expected + BitVec.ofNat 32 m.cfg.tolerance) lead = true := by
  unfold Mkd.inWindow
  rw [Bool.and_eq_true]
  rfl

theorem closeLoop_open (k : Nat) (notPassed : ¬ s.windowPassed = true) : closeLoop (k + 1) s = s := by
  unfold closeLoop
  exact if_neg notPassed

theorem closeLoop_defers (k : Nat) {lead : Pos} (passed : s.windowPassed = true) (candidate : s.mkd.candidate = some lead)
    (inside : s.mkd.inWindow lead = true) : closeLoop (k + 1) s = s.withMkd { s.mkd with deferred := true } := by
  unfold closeLoop
  rw [if_pos passed, candidate]
  exact if_pos inside

theorem closeLoop_misses (k : Nat) (passed : s.windowPassed = true)
    (outside : ∀ lead, s.mkd.candidate = some lead → ¬ s.mkd.inWindow lead = true) :
    closeLoop (k + 1) s = closeLoop k (missMark s) := by
  conv_lhs => unfold closeLoop
  rw [if_pos passed]
  cases candidate : s.mkd.candidate with
  | none => rfl
  | some lead => exact if_neg (outside lead candidate)

end

theorem missMark_synthesised {s : State} (mode : s.run.mode = .run) (within : s.mkd.missRun < s.mkd.cfg.missLimit) :
    missMark s = marked .synthetic s.mkd.expected { s.mkd with
      missRun := s.mkd.missRun + 1, lastAccepted := some s.mkd.expected
      expected := s.mkd.expected + BitVec.ofNat 32 s.mkd.cfg.pitch, state := .coast } 0 true s := by
  unfold missMark
  rw [if_pos (Nat.succ_le_of_lt within), requestItem_eq mode]
  rfl

theorem missMark_lost {s : State} (beyond : s.mkd.cfg.missLimit ≤ s.mkd.missRun) : missMark s =
    (s.offer (.lost s.mkd.expected s.mkd.cfg.missLimit s.lei.reach s.mkd.lastCreated)).withMkd
      { s.mkd with missRun := 0, state := .search } := by
  unfold missMark
  rw [if_neg (by omega)]
  dsimp only
  rw [State.offer_mkd]

/-! ### At an advance of the reach (R26, R27) -/

theorem releaseLastAccepted_eq (s : State) : releaseLastAccepted s =
    if s.mkd.state = .search ∧ ∃ last ∈ s.mkd.lastAccepted, atOrBeyond s.lei.reach (last + 0x40000000#32) = true
    then s.withMkd { s.mkd with lastAccepted := none } else s := by
  unfold releaseLastAccepted
  cases state : s.mkd.state with
  | search =>
    cases accepted : s.mkd.lastAccepted with
    | none => simp
    | some last => by_cases far : atOrBeyond s.lei.reach (last + 0x40000000#32) = true <;> simp [plusLu, far]
  | idle => simp
  | off => simp
  | track => simp
  | coast => simp

theorem qualify_judges {s : State} {lead : Pos} (sees : s.mkd.state.sees = true) (candidate : s.mkd.candidate = some lead)
    (long : atOrBeyond s.lei.reach (lead + BitVec.ofNat 32 s.mkd.cfg.minLength) = true) : qualify s = judge lead s := by
  unfold qualify
  rw [candidate]
  exact if_pos (by rw [sees]; exact long)

theorem qualify_waits {s : State} (h : ¬ s.mkd.state.sees = true ∨ ∀ lead, s.mkd.candidate = some lead →
    atOrBeyond s.lei.reach (lead + BitVec.ofNat 32 s.mkd.cfg.minLength) = false) : qualify s = s := by
  unfold qualify
  cases candidate : s.mkd.candidate with
  | none => rfl
  | some lead =>
    refine if_neg fun qualifies => ?_
    obtain ⟨sees, long⟩ := Bool.and_eq_true_iff.mp qualifies
    rcases h with blind | short
    · exact blind sees
    · exact absurd ((short lead candidate).symm.trans long) Bool.false_ne_true

/-! ### Edges of the selected input (R24, R25, R26, R29) -/

theorem markEdge_opened {s : State} (candidate : s.mkd.candidate ≠ none) : markEdge s = s := by
  obtain ⟨lead, held⟩ := Option.ne_none_iff_exists'.mp candidate
  unfold markEdge
  rw [held]

theorem markEdge_retrace {s : State} (none : s.mkd.candidate = none) (behind : s.lei.position ≠ s.lei.reach) :
    markEdge s = s.offer (.stray .retrace s.lei.position s.lei.reach s.mkd.state 0#32) := by
  unfold markEdge
  rw [none]
  exact if_neg (by simpa [Lei.atFrontier] using behind)

theorem markEdge_frontier {s : State} (none : s.mkd.candidate = none) (frontier : s.lei.position = s.lei.reach) :
    markEdge s = if s.mkd.cfg.minLength = 0 then judge s.lei.reach s else s.withMkd { s.mkd with candidate := some s.lei.reach } := by
  unfold markEdge
  rw [none]
  exact if_pos (by simpa [Lei.atFrontier] using frontier)

theorem levelLoss_none {s : State} (none : s.mkd.candidate = none) : levelLoss s = s := by
  unfold levelLoss
  rw [none]

theorem levelLoss_short {s : State} {lead : Pos} (candidate : s.mkd.candidate = some lead) :
    let u := (s.offer (.stray .short lead s.lei.reach s.mkd.state 0#32)).withMkd
      { s.mkd with candidate := none, deferred := false }
    levelLoss s = if s.mkd.deferred = true then closeTest (missMark u) else u := by
  unfold levelLoss State.offerStray
  rw [candidate]
  dsimp only
  rw [State.offer_mkd]

/-- Settles O51. -/
theorem candidatesAreJudgedAndMissesCounted : Obligations.CandidatesAreJudgedAndMissesCounted := by
  refine ⟨fun s lead mode => ?_, fun s mode => ?_, fun k s => ?_, fun note s => ?_, fun input active s => ?_⟩
  · intro u v m windowStart c accepted locked
    have same : judged lead s = v := judged_eq lead s
    have acts : Acts .marks s v := same ▸ judged_acts lead mode
    have run : v.run.mode = .run := acts.mode_run mode
    have reach : v.lei.reach = s.lei.reach := acts.reach_kept (by rw [run]; decide)
    have stray : ∀ (why : StrayReason) (reference : Pos),
        v.offerStray why lead reference = v.offer (.stray why lead s.lei.reach m.state reference) := fun why reference => by
      rw [← reach]
      rfl
    have made : ∀ (state : DetState) (expected : Pos) (missRun : Nat) (deviation : Int) (notMeasured : Bool),
        marked .sensed lead { m with state := state, expected := expected, missRun := missRun, lastAccepted := some lead }
          deviation notMeasured v = accepted state expected missRun deviation notMeasured :=
      fun state expected missRun deviation notMeasured => by
        unfold marked
        rw [reach]
    refine ⟨fun last _ held short => ?_, fun beyond => ?_⟩
    · have held' : (judged lead s).mkd.lastAccepted = some last := by rw [same]; exact held
      rw [judge_early held' short, same, stray]
    · have state : judge lead s = judgeState lead v := by
        rw [← same]
        exact judge_state (by rw [same]; exact beyond)
      rw [state]
      refine ⟨fun last search free held blanked => ?_, fun search free clear => ?_, fun search pitch => ?_,
        fun lock short => ?_, fun lock inside => ?_⟩
      · rw [judgeState_search search, judgeSearch_blanked free held blanked, stray, search]
      · rw [judgeState_search search, judgeSearch_free run free clear, ← made, ← search]
      · rw [judgeState_search search, judgeSearch_pitch run pitch, ← made]
      · rw [judgeState_locked lock, ← stray]
        exact if_neg (by rw [show atOrBeyond lead v.mkd.windowStart = false from short]; exact Bool.false_ne_true)
      · rw [judgeState_locked lock, ← made]
        exact (if_pos inside).trans (acceptLocked_eq run _ _)
  · intro m c
    exact ⟨missMark_synthesised mode, missMark_lost⟩
  · intro m passed inside
    refine ⟨rfl, rfl, fun notPassed => closeLoop_open k (mt windowPassed_iff.mp notPassed),
      fun lead ends candidate within => closeLoop_defers k (windowPassed_iff.mpr ends) candidate (inWindow_iff.mpr within),
      fun ends outside => closeLoop_misses k (windowPassed_iff.mpr ends) fun lead candidate =>
        mt inWindow_iff.mp (outside lead candidate)⟩
  · intro m sees
    refine ⟨?_, fun lead running see candidate long => ?_, fun h => ?_, rfl⟩
    · show whileRunning releaseLastAccepted s = _
      unfold whileRunning
      rw [releaseLastAccepted_eq]
      exact (ite_and ..).symm
    · exact (if_pos running).trans (qualify_judges (DetState.sees_iff.mpr see) candidate long)
    · show whileRunning qualify s = s
      unfold whileRunning
      rcases h with stopped | waits
      · rw [stopped]
        rfl
      · rw [qualify_waits (waits.imp_left (mt DetState.sees_iff.mp)), ite_self]
  · intro m sees mark t
    have edge : sees → t = if m.cfg.edge.marks active = true then markEdge s else levelLoss s := fun ⟨see, input'⟩ =>
      if_pos (by rw [DetState.sees_iff.mpr see]; exact beq_iff_eq.mpr input')
    have marks : sees → mark → t = markEdge s := fun see isMark => (edge see).trans (if_pos (EdgeKind.marks_iff.mpr isMark))
    have loses : sees → ¬ mark → t = levelLoss s := fun see notMark =>
      (edge see).trans (if_neg (mt EdgeKind.marks_iff.mp notMark))
    refine ⟨fun blind => if_neg fun taken => blind ?_, fun see isMark candidate => (marks see isMark).trans (markEdge_opened candidate),
      fun see isMark none behind => (marks see isMark).trans (markEdge_retrace none behind),
      fun see isMark none frontier => (marks see isMark).trans (markEdge_frontier none frontier),
      fun see notMark none => (loses see notMark).trans (levelLoss_none none),
      fun lead see notMark candidate => (loses see notMark).trans (levelLoss_short candidate)⟩
    obtain ⟨see, input'⟩ := Bool.and_eq_true_iff.mp taken
    exact ⟨DetState.sees_iff.mp see, beq_iff_eq.mp input'⟩

end Sys2Proof.Machine
end
